-- ==== Sys2Proof/Word.lean ====
section
/-!
DEFINITION. The word types of FPE and the two small shapes the spec uses over and over: three axes, and the low and
high half of an axis (00_scope R8, R10; 42_sensor_io R180).
-/

namespace Sys2Proof

/-- A `u8` (R8): a bus data byte, a register address, a byte of BUF. -/
abbrev Byte := BitVec 8

/-- A 32-bit host register value (10_state R21). -/
abbrev Word := BitVec 32

/-- A binary32 value, held as its bit pattern (00_scope R10). -/
abbrev F32 := BitVec 32

/-- A 7-bit peripheral address (00_scope R7). -/
abbrev BusAddr := BitVec 7

/-- One value for each of the axes X, Y, Z. -/
structure Axes (α : Type) where
  x : α
  y : α
  z : α
  deriving DecidableEq, Repr, Inhabited

/-- The low and the high half of one axis (42_sensor_io R180). -/
structure HiLo where
  lo : Byte
  hi : Byte
  deriving DecidableEq, Repr, Inhabited

end Sys2Proof
end

