-- ==== Sys2Proof/Syntax.lean ====
section
/-!
DEFINITION. The instructions of FPE: one constructor for each row of spec/opcode_table.json. None carries an operand
(30_encoding R82, R85, R86): operands come from the argument registers and from the master's registers.
-/

namespace Sys2Proof

/-- The ten host commands (30_encoding R83) and the seven legal master commands (30_encoding R87). -/
inductive Instr where
  /-- INIT, OP 0x1 (41_engine_ops R145) -/
  | init
  /-- READ_REG, OP 0x2 (41_engine_ops R147) -/
  | readReg
  /-- WRITE_REG, OP 0x3 (41_engine_ops R150) -/
  | writeReg
  /-- BURST_READ, OP 0x4 (41_engine_ops R155) -/
  | burstRead
  /-- BURST_WRITE, OP 0x5 (41_engine_ops R160) -/
  | burstWrite
  /-- READ_ACCEL, OP 0x6 (42_sensor_io R182) -/
  | readAccel
  /-- READ_GYRO, OP 0x7 (42_sensor_io R183) -/
  | readGyro
  /-- SCALE_ACCEL, OP 0x8 (43_estimator R211) -/
  | scaleAccel
  /-- SCALE_GYRO, OP 0x9 (43_estimator R212) -/
  | scaleGyro
  /-- ESTIMATE, OP 0xA (43_estimator R215) -/
  | estimate
  /-- MCMD 0x1 RUN, burst-continue (40_bus_master R106) -/
  | mcmdRun
  /-- MCMD 0x3 START+RUN, burst-start (40_bus_master R107) -/
  | mcmdStartRun
  /-- MCMD 0x4 STOP (40_bus_master R108) -/
  | mcmdStop
  /-- MCMD 0x5 RUN+STOP, burst-finish (40_bus_master R109) -/
  | mcmdRunStop
  /-- MCMD 0x7 START+RUN+STOP, single-shot (40_bus_master R110) -/
  | mcmdStartRunStop
  /-- MCMD 0x9 RUN+ACK, receive burst-continue with acknowledge (40_bus_master R111) -/
  | mcmdRunAck
  /-- MCMD 0xB START+RUN+ACK, receive burst-start with acknowledge (40_bus_master R112) -/
  | mcmdStartRunAck
  deriving DecidableEq, Repr, Inhabited

end Sys2Proof
end

