-- ==== Sys2Proof/WellFormed.lean ====
section
/-!
DEFINITION. Which encoded objects are well formed, as the tables of 30_encoding and 20_memory R62 list them. They are
written apart from the decoder and from the host port, so that the statements can compare the two.
An `Instr` carries no operand, so every one of them is well formed.
-/

namespace Sys2Proof

/-- RSVD[31:4] is 0 (30_encoding R82). -/
def wfRsvd (w : Word) : Bool := w.toNat / 16 == 0

/-- OP[3:0] is one of the ten opcodes 0x1 to 0xA (30_encoding R83). -/
def wfOp (w : Word) : Bool := 1 ≤ w.toNat % 16 && w.toNat % 16 ≤ 10

/-- A CMD word that R84 does not reject for its bits. -/
def wfCmdWord (w : Word) : Bool := wfRsvd w && wfOp w

/-- A legal MCMD code (30_encoding R87). -/
def wfMcmd (c : BitVec 4) : Bool :=
  [0x1#4, 0x3#4, 0x4#4, 0x5#4, 0x7#4, 0x9#4, 0xB#4].contains c

/-- An MCMD code that is legal only while the bus is held (30_encoding R87). -/
def wfNeedsHeld (c : BitVec 4) : Bool := [0x1#4, 0x5#4, 0x9#4].contains c

/-- A host access that is admitted (20_memory R62): 4 bytes wide, at a multiple of 4 in 0x00..0xFC. -/
def wfAccess (off width : Nat) : Bool := width == 4 && off % 4 == 0 && off ≤ 0xFC

/-- Every instruction is well formed: none has a field (30_encoding R82, R86). -/
def Instr.wf (_ : Instr) : Bool := true

end Sys2Proof
end

