-- ==== Sys2Proof/Decode.lean ====
section
/-!
DEFINITION. Decoding of the CMD word (30_encoding R82 to R84) and of the MCMD (R86, R87), both total and refusing by
name; the address byte (R88); and after them the encoder, written from the same tables.
-/

namespace Sys2Proof

/-- Why an encoded object is no instruction. -/
inductive DecodeReject where
  /-- a CMD word with RSVD[31:4] not 0 (30_encoding R84: rejected with BADCMD) -/
  | rsvdNotZero
  /-- a CMD word whose OP is 0x0 or 0xB to 0xF (30_encoding R84: rejected with BADCMD) -/
  | reservedOp
  /-- one of the nine reserved MCMD codes (30_encoding R87: `Fault(MASTER_PROTOCOL)`) -/
  | reservedMcmd
  deriving DecidableEq, Repr

/-- OP[3:0] of a CMD word (30_encoding R82). -/
def cmdOp (w : Word) : BitVec 4 := w.extractLsb' 0 4

/-- RSVD[31:4] of a CMD word (30_encoding R82). -/
def cmdRsvd (w : Word) : BitVec 28 := w.extractLsb' 4 28

/-- The OP map (30_encoding R83). -/
def decodeOp (op : BitVec 4) : Option Instr :=
  match op.toNat with
  | 0x1 => some .init
  | 0x2 => some .readReg
  | 0x3 => some .writeReg
  | 0x4 => some .burstRead
  | 0x5 => some .burstWrite
  | 0x6 => some .readAccel
  | 0x7 => some .readGyro
  | 0x8 => some .scaleAccel
  | 0x9 => some .scaleGyro
  | 0xA => some .estimate
  | _ => none

/-- The checks of 30_encoding R84 that read the word alone, in R84's order. The third check reads COUNT and stands with
the bursts' acceptance. -/
def decodeCmd (w : Word) : Except DecodeReject Instr :=
  if cmdRsvd w ≠ 0 then .error .rsvdNotZero
  else
    match decodeOp (cmdOp w) with
    | some i => .ok i
    | none => .error .reservedOp

/-- The MCMD table (30_encoding R87). -/
def decodeMcmd (c : BitVec 4) : Except DecodeReject Instr :=
  match c.toNat with
  | 0x1 => .ok .mcmdRun
  | 0x3 => .ok .mcmdStartRun
  | 0x4 => .ok .mcmdStop
  | 0x5 => .ok .mcmdRunStop
  | 0x7 => .ok .mcmdStartRunStop
  | 0x9 => .ok .mcmdRunAck
  | 0xB => .ok .mcmdStartRunAck
  | _ => .error .reservedMcmd

/-- The address byte `(sa7 << 1) | rw` (30_encoding R88). -/
def addrByte (sa7 : BusAddr) (rw : Bool) : Byte := sa7 ++ BitVec.ofBool rw

/-- The two encoded command spaces (30_encoding R80). -/
inductive Encoded where
  /-- a 32-bit value written to offset 0x00 -/
  | cmd (w : Word)
  /-- a 4-bit code handed to the master -/
  | mcmd (c : BitVec 4)
  deriving DecidableEq, Repr

/-- Decoding of either space. -/
def decode (e : Encoded) : Except DecodeReject Instr :=
  match e with
  | .cmd w => decodeCmd w
  | .mcmd c => decodeMcmd c

/-- The encoder: 30_encoding R83 (with RSVD = 0, R82) and R87. -/
def encode (i : Instr) : Encoded :=
  match i with
  | .init => .cmd 0x00000001#32
  | .readReg => .cmd 0x00000002#32
  | .writeReg => .cmd 0x00000003#32
  | .burstRead => .cmd 0x00000004#32
  | .burstWrite => .cmd 0x00000005#32
  | .readAccel => .cmd 0x00000006#32
  | .readGyro => .cmd 0x00000007#32
  | .scaleAccel => .cmd 0x00000008#32
  | .scaleGyro => .cmd 0x00000009#32
  | .estimate => .cmd 0x0000000A#32
  | .mcmdRun => .mcmd 0x1#4
  | .mcmdStartRun => .mcmd 0x3#4
  | .mcmdStop => .mcmd 0x4#4
  | .mcmdRunStop => .mcmd 0x5#4
  | .mcmdStartRunStop => .mcmd 0x7#4
  | .mcmdRunAck => .mcmd 0x9#4
  | .mcmdStartRunAck => .mcmd 0xB#4

/-- An object of the opcode table's own bits: an MCMD row has 4 bits, one byte when counted in whole bytes, and a CMD
row has 32 (log entry 20). `none` if the number does not fit the object. -/
def encodedOfTable (nbits w : Nat) : Option Encoded :=
  if nbits ≤ 8 then (if w < 16 then some (.mcmd (BitVec.ofNat 4 w)) else none)
  else (if w < 2 ^ 32 then some (.cmd (BitVec.ofNat 32 w)) else none)

/-- The instruction that the decoder reads from the `nbits` bits `w` of an opcode table row. -/
def decodeTableWord (nbits w : Nat) : Option Instr :=
  match encodedOfTable nbits w with
  | some e =>
    match decode e with
    | .ok i => some i
    | .error _ => none
  | none => none

end Sys2Proof
end

