-- ==== Sys2Proof/Config.lean ====
section
/-!
DEFINITION. What an implementation of FPE fixes (the OPEN parameters of 00_scope R7) and the free values, with the types
they are written over: among them the history that the bus environment sees (40_bus_master R120). Each is an
opaque constant without a body: no proof can see what it is, so a claim holds for every value. Assumption log entries
1, 2, 7, 9 to 13, 16, 17, 32 and 33.
-/

namespace Sys2Proof

/-- The agents that have a step of their own (00_scope R6). The bus environment answers the master's draws inside the
master's step; a step of its own changes the sensor's samples between two transactions (40_bus_master R123). -/
inductive Agent where
  | host
  | sequencer
  | master
  | environment
  | reset
  deriving DecidableEq, Repr, Inhabited

/-- An acknowledge bit on the bus (40_bus_master R101): A or N. -/
inductive Ack where
  /-- A, acknowledged -/
  | ack
  /-- N, not acknowledged -/
  | nack
  deriving DecidableEq, Repr, Inhabited

/-- Everything the bus environment can be asked during ONE master command (40_bus_master R105, R120). A command draws
at most one of each, and an answer that the command never asks for has no effect. -/
structure BusAnswer where
  /-- `arb_lost()`, asked after the START and before the address byte -/
  lostBeforeAddr : Bool
  /-- `addr_ack(a7, rw)` -/
  addrAck : Ack
  /-- `arb_lost()`, asked before the data byte -/
  lostBeforeData : Bool
  /-- `tx_ack(b)` -/
  txAck : Ack
  /-- `rx_byte()` -/
  rxByte : Byte
  /-- another master holds the bus when the command ends (the draw in `m.BUSBSY`, 10_state R37) -/
  otherMaster : Bool
  deriving DecidableEq, Repr, Inhabited

/-- One latched sample of the sensor: the six accelerometer and the six gyroscope bytes (40_bus_master R123). -/
structure Sample where
  acc : Axes HiLo
  gyr : Axes HiLo
  deriving DecidableEq, Repr, Inhabited

/-- The register addresses of the inertial sensor (42_sensor_io R180). -/
structure SensorMap where
  /-- `P_ACC_DATA_REG` -/
  accData : Axes HiLo
  /-- `P_GYR_DATA_REG` -/
  gyrData : Axes HiLo
  /-- `P_ACC_CFG_REG` -/
  accCfg : Byte
  /-- `P_GYR_CFG_REG` -/
  gyrCfg : Byte
  deriving DecidableEq, Repr, Inhabited

/-- A full-scale tier, 0 to 3 (00_scope section 6). -/
inductive Tier where
  | t0
  | t1
  | t2
  | t3
  deriving DecidableEq, Repr, Inhabited

/-- The two readings of raw/divisor, `P_SCALE_EVAL` (43_estimator R205). -/
inductive ScaleEval where
  | b32
  | b64ThenB32
  deriving DecidableEq, Repr, Inhabited

/-- Which configuration register selects the gyro tier, `P_GYRO_TIER_SOURCE` (43_estimator R209). -/
inductive GyroTierSource where
  | gyroCfg
  | accelCfg
  deriving DecidableEq, Repr, Inhabited

namespace Machine

/-- The accepted host command (10_state R39, `seq.op`); the numbers are 30_encoding R83. -/
inductive HostCmd where
  | init
  | readReg
  | writeReg
  | burstRead
  | burstWrite
  | readAccel
  | readGyro
  | scaleAccel
  | scaleGyro
  | estimate
  deriving DecidableEq, Repr, Inhabited

/-- The phase labels of 10_state R39. -/
inductive Phase where
  /-- no command runs -/
  | idle
  /-- START_ADDR_W: (repeated) START, address with R/W = 0, register address byte -/
  | startAddrW
  /-- START_ADDR_R: repeated START, address with R/W = 1, first received byte -/
  | startAddrR
  /-- RECV_BYTE: continue receiving -/
  | recvByte
  /-- SEND_BYTE: continue transmitting -/
  | sendByte
  /-- STOP_ABORT: STOP after an error -/
  | stopAbort
  /-- COMPUTE: the configuration or datapath step -/
  | compute
  /-- DONE: the completion step of a command -/
  | done
  deriving DecidableEq, Repr, Inhabited

/-- The wire events (40_bus_master R101). -/
inductive WireEvent where
  /-- `S`: START -/
  | s
  /-- `Sr`: repeated START -/
  | sr
  /-- `ADDR(a7, rw, k)` -/
  | addr (a7 : BusAddr) (rw : Bool) (k : Ack)
  /-- `TX(b, k)` -/
  | tx (b : Byte) (k : Ack)
  /-- `RX(b, k)` -/
  | rx (b : Byte) (k : Ack)
  /-- `P`: STOP -/
  | p
  /-- `LOST`: arbitration lost -/
  | lost
  deriving DecidableEq, Repr

/-- One host action (30_encoding R90). The offset is relative to `P_BASE`, the width is in bytes (20_memory R62). -/
inductive HostAction where
  /-- `W off, v` -/
  | write (off width : Nat) (v : Word)
  /-- `R off -> name`; the value goes to the end of `values` -/
  | read (off width : Nat)
  /-- `POLL`: repeat `R 0x04 -> s` until `s[0] = 0` -/
  | poll
  deriving DecidableEq, Repr

/-- One past step, as the bus environment's history keeps it (40_bus_master R120): which agent moved, and for the host and
the sequencer what stood before them (log entry 32). -/
inductive PastStep where
  /-- the host moved, with the action it had next, if any -/
  | host (action : Option HostAction)
  /-- the sequencer moved, in this phase of this command, if any -/
  | sequencer (op : Option HostCmd) (phase : Phase)
  | master
  | environment
  | reset
  deriving DecidableEq, Repr

/-- The bus environment's history (10_state R44, 40_bus_master R120): the wire trace and the past steps of the agents,
both oldest first. -/
structure History where
  trace : List WireEvent
  steps : List PastStep
  deriving DecidableEq, Repr

end Machine

namespace Config

/-- `P_BASE` over 0x100: the window stands at `pBase * 0x100`, any address aligned to 0x100 (00_scope R7). A host address
has no width in the model, since the spec gives none (log entry 16). -/
opaque pBase : Nat

/-- `P_IMU_SA_RESET` (10_state R30; log entry 13). -/
opaque imuSaReset : BusAddr

/-- `P_TPR`, the timing divisor that INIT writes (41_engine_ops R145; log entry 13). -/
opaque tpr : Byte

/-- `P_PLATFORM`: what INIT makes of the pin multiplexing and the peripheral clock, as an uninterpreted number (00_scope R7,
41_engine_ops R145; log entry 17). -/
opaque platform : Nat

/-- `P_ACC_DATA_REG`, `P_GYR_DATA_REG`, `P_ACC_CFG_REG`, `P_GYR_CFG_REG` (42_sensor_io R180; log entry 13). -/
opaque sensorMap : SensorMap

/-- `P_TIER_OF`; `none` is NONE (43_estimator R207; log entry 13). -/
opaque tierOf : Byte → Option Tier

/-- `P_SCALE_EVAL` (43_estimator R205; log entry 12). -/
opaque scaleEval : ScaleEval

/-- The uninterpreted magnitudes from which `atanDeg` (`P_ATAN_DEG`, 43_estimator R203) is made; log entry 10. -/
opaque atanRaw : Nat → Nat

/-- FREE VALUE: the `n`th byte that a failed read phase leaves unspecified (41_engine_ops R146; log entry 1). -/
opaque freeByte : Nat → Byte

/-- FREE VALUE: sign and significand of the `n`th NaN result (43_estimator R201; log entry 11). -/
opaque freeNaN : Nat → BitVec 24

/-- FREE VALUE: what the oracle answers to a master command where no answer is laid down: any function of the draw counter,
the history, and what the draws are asked about, namely the address byte and the data byte (40_bus_master R120; log
entry 7). -/
opaque freeAnswer : Nat → Machine.History → (sa dr : Byte) → BusAnswer

/-- FREE VALUE: whether the sensor relatches, and which sample, by the history and the draw counter (40_bus_master R123;
log entry 9). -/
opaque freeSample : Nat → Machine.History → Option Sample

/-- FREE VALUE: which agent moves where no order is laid down, by the history and the draw counter: so whether and when an
issued command completes is the environment's (20_memory R71, 40_bus_master R120; log entry 2). -/
opaque freeAgent : Nat → Machine.History → Agent

/-- FREE VALUE: how many steps of other agents a master command may wait on the reference peripheral, by the wire trace
so far: some number, since every command completes there (BUS_LIVE, 40_bus_master R122; log entry 33). -/
opaque freeWait : List Machine.WireEvent → Nat

end Config

end Sys2Proof
end

