-- ==== Sys2Proof/Machine/State.lean ====
section
/-!
DEFINITION. The state of FPE as plain data (10_state R20 to R44), the reasons a step can stop, and the state right after
reset (70_reset_and_hazards R270). Fields that the spec does not name are marked as the model's own and stand in the
assumption log.
-/

namespace Sys2Proof.Machine

/-- The model faults of 60_exceptions R248. -/
inductive Fault where
  /-- Raised by the acceptance of a bus command with INIT_DONE = 0 (41_engine_ops R142), and by an issue with m.EN = 0
  (40_bus_master R103). `op` is the OP as info. SAFE: the spec calls the behaviour undefined and gives no effect. -/
  | uninitUse (op : BitVec 4)
  /-- Raised by an issue of a reserved MCMD, or of a continuing MCMD with m.HELD = 0 (40_bus_master R103), and by the
  master's step on a reserved code in m.CMD (30_encoding R87). `mcmd` is the MCMD as info. SAFE. -/
  | masterProtocol (mcmd : BitVec 4)
  /-- Raised by a host access that is not an aligned 32-bit access within the window (20_memory R62). `off` and `width`
  are the info. SAFE: the spec gives the hardware's response to such an access no effect. -/
  | hostAccess (off width : Nat)
  deriving DecidableEq, Repr

/-- Why a step gives no meaning. -/
inductive Refusal where
  /-- An instruction whose arm in exec has no meaning yet. No arm raises it any more. SAFE. -/
  | notModelled (mnemonic : String)
  deriving DecidableEq, Repr

/-- STATUS (10_state R23). It is read only to the host, so it holds nothing but these flags. -/
structure Status where
  busy : Bool
  initDone : Bool
  ovr : Bool
  badCmd : Bool
  tierInv : Bool
  deriving DecidableEq, Repr, Inhabited

/-- The host-visible registers (10_state R21), each at the width of its field. -/
structure Regs where
  status : Status
  sa : BusAddr
  ra : Byte
  wdata : Byte
  count : Byte
  rdata : Byte
  result : Byte
  imuSa : BusAddr
  cfgA : Byte
  cfgG : Byte
  accRaw : Axes (BitVec 16)
  gyrRaw : Axes (BitVec 16)
  acc : Axes F32
  gyr : Axes F32
  tiltX : F32
  tiltY : F32
  yaw : F32
  buf : Vector Byte 16
  deriving DecidableEq, Repr

/-- The master (10_state R37, R38). IDLE and BUSBSY of `m.STAT` are derived; `otherMaster` is the drawn half of BUSBSY
(log entry 8). -/
structure Master where
  busy : Bool
  error : Bool
  adrack : Bool
  datack : Bool
  arblst : Bool
  otherMaster : Bool
  en : Bool
  tpr : Byte
  sa : Byte
  dr : Byte
  dir : Bool
  held : Bool
  cmd : BitVec 4
  deriving DecidableEq, Repr, Inhabited

/-- The sequencer (10_state R39). `issued` is the model's own (log entry 5): inside a phase of 41_engine_ops R140, false
before `issue` and true after it. -/
structure Seq where
  op : Option HostCmd
  phase : Phase
  issued : Bool
  i : Byte
  t : BitVec 3
  tmp : Vector Byte 6
  err : Byte
  rx : Bool
  sa : BusAddr
  ra : Byte
  wd : Byte
  n : Byte
  deriving DecidableEq, Repr

/-- A memory of bytes: (address, byte) pairs, addresses strictly rising, no entry equal to what an unlisted address
reads as. FPE has no memory (20_memory R60); the reference peripheral's register file is one (40_bus_master R122). -/
abbrev Memory := List Host.Cell

/-- Whether the reference peripheral is addressed: by the last ADDR event, and until the transaction it began is over
(40_bus_master R122; log entry 9). -/
inductive Addressed where
  /-- not addressed -/
  | no
  /-- by `ADDR(a7, 0, A)`: TX events are its own -/
  | write
  /-- by `ADDR(a7, 1, A)`: RX events are its own -/
  | read
  deriving DecidableEq, Repr

/-- The reference peripheral `RP(a7, mem, nack_at)` (40_bus_master R122), and with `relatch` the reference sensor RS
(R123). `samples` are the relatch answers laid down, oldest first (log entry 9). -/
structure RefPeripheral where
  addr : BusAddr
  mem : Memory
  ptr : Byte
  wc : Nat
  addressed : Addressed
  /-- `none` is `nack_at = ∞` -/
  nackAt : Option Nat
  relatch : Bool
  samples : List (Option Sample)
  deriving DecidableEq, Repr

/-- The bus environment (40_bus_master R120). -/
inductive BusEnv where
  /-- the unconstrained oracle, with the answers laid down for the next commands (log entry 7) -/
  | oracle (script : List BusAnswer)
  /-- a reference peripheral (R122) or sensor (R123) -/
  | reference (p : RefPeripheral)
  deriving DecidableEq, Repr

/-- The state of FPE and of the agents around it. -/
structure State where
  /-- host-visible registers (10_state R21) -/
  regs : Regs
  /-- the master (10_state R37, R38) -/
  m : Master
  /-- the sequencer (10_state R39) -/
  seq : Seq
  /-- the recorded model fault (10_state R44; log entry 21) -/
  fault : Option Fault
  /-- the wire-event trace, oldest first (40_bus_master R101) -/
  trace : List WireEvent
  /-- the past steps, oldest first: with `trace`, the bus environment's history (10_state R44; log entry 32) -/
  past : List PastStep
  /-- the bus environment (40_bus_master R120) -/
  env : BusEnv
  /-- the host's actions still to do (model's own, log entry 18) -/
  host : List HostAction
  /-- the values the host has read, oldest first (model's own, log entry 18) -/
  values : List Word
  /-- the agents that move next (model's own, log entry 2) -/
  sched : List Agent
  /-- how many steps the master command in work has waited (model's own, log entry 33) -/
  waited : Nat
  /-- how many free values have been drawn (model's own, log entry 1) -/
  draws : Nat
  /-- what INIT's platform effect has made of the platform; `none` before the first INIT (41_engine_ops R145, 70_reset
  R273; log entry 17) -/
  platform : Option Nat
  deriving DecidableEq, Repr

/-- The history that the bus environment sees (40_bus_master R120). -/
def State.history (s : State) : History := { trace := s.trace, steps := s.past }

/-- The host registers after reset (10_state R21, 70_reset R270). -/
def Regs.reset : Regs where
  status := { busy := false, initDone := false, ovr := false, badCmd := false, tierInv := false }
  sa := 0
  ra := 0
  wdata := 0
  count := 0
  rdata := 0
  result := 0
  imuSa := Config.imuSaReset
  cfgA := 0
  cfgG := 0
  accRaw := { x := 0, y := 0, z := 0 }
  gyrRaw := { x := 0, y := 0, z := 0 }
  acc := { x := 0, y := 0, z := 0 }
  gyr := { x := 0, y := 0, z := 0 }
  tiltX := 0
  tiltY := 0
  yaw := 0
  buf := Vector.replicate 16 0

/-- The master after reset: disabled, idle, not holding the bus (10_state R37, R38). -/
def Master.reset : Master where
  busy := false
  error := false
  adrack := false
  datack := false
  arblst := false
  otherMaster := false
  en := false
  tpr := 0
  sa := 0
  dr := 0
  dir := false
  held := false
  cmd := 0

/-- The sequencer after reset (10_state R39). -/
def Seq.reset : Seq where
  op := none
  phase := .idle
  issued := false
  i := 0
  t := 0
  tmp := Vector.replicate 6 0
  err := 0
  rx := false
  sa := 0
  ra := 0
  wd := 0
  n := 0

/-- The machine right after reset (70_reset R270). What reset does not reach (R270, R273) is here as at the start of a
run: no fault, an empty history, the unconstrained oracle, no host action and no order of agents (log entry 23). -/
def State.reset : State where
  regs := Regs.reset
  m := Master.reset
  seq := Seq.reset
  fault := none
  trace := []
  past := []
  env := .oracle []
  host := []
  values := []
  sched := []
  waited := 0
  draws := 0
  platform := none

end Sys2Proof.Machine
end

