-- ==== Sys2Proof/Machine/Flags.lean ====
section
/-!
DEFINITION. Every flag computation: STATUS as the host reads it (10_state R23), `m.STAT` with its derived bits (R37),
the error code that goes to RESULT (41_engine_ops R152), and the flag bits of an MCMD (30_encoding R86, R87).
-/

namespace Sys2Proof.Machine

/-- STATUS as a word (10_state R21): BUSY[0], INIT_DONE[1], OVR[2], BADCMD[3], TIER_INV[4], the rest 0. -/
def Status.word (st : Status) : Word :=
  (BitVec.ofBool st.tierInv ++ BitVec.ofBool st.badCmd ++ BitVec.ofBool st.ovr ++ BitVec.ofBool st.initDone ++
    BitVec.ofBool st.busy).setWidth 32

/-- `m.STAT` bit IDLE (10_state R37). -/
def Master.idleBit (m : Master) : Bool := !m.busy && !m.held

/-- `m.STAT` bit BUSBSY (10_state R37). -/
def Master.busBusyBit (m : Master) : Bool := m.held || m.otherMaster

/-- `m.STAT` (10_state R37): BUSY[0], ERROR[1], ADRACK[2], DATACK[3], ARBLST[4], IDLE[5], BUSBSY[6]. -/
def Master.stat (m : Master) : BitVec 7 :=
  BitVec.ofBool m.busBusyBit ++ BitVec.ofBool m.idleBit ++ BitVec.ofBool m.arblst ++ BitVec.ofBool m.datack ++
    BitVec.ofBool m.adrack ++ BitVec.ofBool m.error ++ BitVec.ofBool m.busy

/-- `ERR_MASK` (00_scope R7). -/
def errMask : Byte := 0x1E

/-- `m.STAT & ERR_MASK` (41_engine_ops R152). -/
def Master.errCode (m : Master) : Byte := m.stat.setWidth 8 &&& errMask

/-- The error flags cleared, as an issue does (40_bus_master R103). -/
def Master.clearErrors (m : Master) : Master :=
  { m with error := false, adrack := false, datack := false, arblst := false }

/-- MCMD flag RUN (30_encoding R86). -/
def mcmdRunBit (c : BitVec 4) : Bool := c.getLsbD 0

/-- MCMD flag START (30_encoding R86). -/
def mcmdStartBit (c : BitVec 4) : Bool := c.getLsbD 1

/-- MCMD flag STOP (30_encoding R86). -/
def mcmdStopBit (c : BitVec 4) : Bool := c.getLsbD 2

/-- MCMD flag ACK (30_encoding R86). -/
def mcmdAckBit (c : BitVec 4) : Bool := c.getLsbD 3

/-- The codes that R103 lets through its second check. -/
def mcmdLegal (c : BitVec 4) : Bool :=
  match decodeMcmd c with
  | .ok _ => true
  | .error _ => false

/-- The codes of R103's third check: 0x1, 0x5 and 0x9 continue a held bus. -/
def mcmdNeedsHeld (c : BitVec 4) : Bool := c == 0x1#4 || c == 0x5#4 || c == 0x9#4

/-- OP of a host command (30_encoding R83). -/
def HostCmd.code (op : HostCmd) : BitVec 4 :=
  match op with
  | .init => 0x1
  | .readReg => 0x2
  | .writeReg => 0x3
  | .burstRead => 0x4
  | .burstWrite => 0x5
  | .readAccel => 0x6
  | .readGyro => 0x7
  | .scaleAccel => 0x8
  | .scaleGyro => 0x9
  | .estimate => 0xA

/-- The command uses the bus: OP in 0x2..0x9 (41_engine_ops R142). -/
def HostCmd.usesBus (op : HostCmd) : Bool :=
  match op with
  | .init => false
  | .estimate => false
  | _ => true

/-- The instruction that a host command is. -/
def HostCmd.instr (op : HostCmd) : Instr :=
  match op with
  | .init => .init
  | .readReg => .readReg
  | .writeReg => .writeReg
  | .burstRead => .burstRead
  | .burstWrite => .burstWrite
  | .readAccel => .readAccel
  | .readGyro => .readGyro
  | .scaleAccel => .scaleAccel
  | .scaleGyro => .scaleGyro
  | .estimate => .estimate

end Sys2Proof.Machine
end

