-- ==== Sys2Proof/Machine/Memory.lean ====
section
/-!
DEFINITION. Memories of bytes in canonical form. The one memory of the model is the reference peripheral's register file
(40_bus_master R122); an unlisted address reads 0 (log entry 9).
-/

namespace Sys2Proof.Machine

/-- What an address that is not listed reads as. -/
def Memory.unlisted : Byte := 0

/-- The byte at an address. -/
def Memory.read (mem : Memory) (a : Nat) : Byte :=
  match mem with
  | [] => Memory.unlisted
  | (b, v) :: rest => if a = b then v else Memory.read rest a

/-- A memory without its entry at `a`. -/
def Memory.dropEntry (mem : Memory) (a : Nat) : Memory :=
  match mem with
  | [] => []
  | (b, v) :: rest => if a = b then rest else (b, v) :: Memory.dropEntry rest a

/-- A memory with the entry (a, v) put in its place. -/
def Memory.putEntry (mem : Memory) (a : Nat) (v : Byte) : Memory :=
  match mem with
  | [] => [(a, v)]
  | (b, w) :: rest =>
    if a < b then (a, v) :: (b, w) :: rest
    else if a = b then (a, v) :: rest
    else (b, w) :: Memory.putEntry rest a v

/-- Writing one byte; writing what an unlisted address reads as removes the entry, so the form stays canonical. -/
def Memory.write (mem : Memory) (a : Nat) (v : Byte) : Memory :=
  if v = Memory.unlisted then Memory.dropEntry mem a else Memory.putEntry mem a v

/-- Every address of the memory lies above `lo`, the addresses rise strictly, and no entry is the unlisted byte. -/
def Memory.wfAbove (mem : Memory) (lo : Nat) : Bool :=
  match mem with
  | [] => true
  | (b, v) :: rest => lo ≤ b && v != Memory.unlisted && Memory.wfAbove rest (b + 1)

/-- The canonical form. -/
def Memory.wf (mem : Memory) : Bool := Memory.wfAbove mem 0

end Sys2Proof.Machine
end

