-- ==== Sys2Proof/Machine/BusEnv.lean ====
section
/-!
DEFINITION. The bus environment (40_bus_master R120): what it answers during one master command, how it changes by the
wire events of that command, and its own step between two transactions. Its instances are the unconstrained oracle, the
reference peripheral RP (R122) and the reference sensor RS (R123). Log entries 7 and 9.
-/

namespace Sys2Proof.Machine

/-- Writes the two bytes of one axis at the sensor's addresses. -/
def Memory.putHiLo (mem : Memory) (at_ : HiLo) (v : HiLo) : Memory :=
  (mem.write at_.lo.toNat v.lo).write at_.hi.toNat v.hi

/-- Writes the three axes at the sensor's addresses. -/
def Memory.putAxes (mem : Memory) (at_ v : Axes HiLo) : Memory :=
  ((mem.putHiLo at_.x v.x).putHiLo at_.y v.y).putHiLo at_.z v.z

/-- A sample latched into the register file at `P_ACC_DATA_REG` and `P_GYR_DATA_REG` (R123). -/
def RefPeripheral.latch (p : RefPeripheral) (v : Sample) : RefPeripheral :=
  { p with mem := (p.mem.putAxes Config.sensorMap.accData v.acc).putAxes Config.sensorMap.gyrData v.gyr }

/-- The choice point of RS (R123): the next answer laid down, or the `n`th free one; it may be no new sample. -/
def RefPeripheral.relatchPoint (p : RefPeripheral) (n : Nat) (h : History) : RefPeripheral :=
  let q := { p with samples := p.samples.tail }
  match p.samples.headD (Config.freeSample n h) with
  | some v => q.latch v
  | none => q

/-- `ptr <- (ptr + 1) mod 256` (R122). -/
def RefPeripheral.advance (p : RefPeripheral) : RefPeripheral := { p with ptr := p.ptr + 1 }

/-- A TX event of a transaction that addresses it for write (R122): byte 0 sets the pointer, a later one is stored and
advances it; a NACKed byte does none of these, and only counts (DEDUCED, log entry 9). -/
def RefPeripheral.onTx (p : RefPeripheral) (b : Byte) (k : Ack) : RefPeripheral :=
  let q :=
    match k with
    | .nack => p
    | .ack =>
      if p.wc = 0 then { p with ptr := b }
      else RefPeripheral.advance { p with mem := p.mem.write p.ptr.toNat b }
  { q with wc := p.wc + 1 }

/-- An ADDR event (R122): its own address, acknowledged, addresses it; any other leaves it not addressed. -/
def RefPeripheral.onAddr (p : RefPeripheral) (a7 : BusAddr) (rw : Bool) (k : Ack) : RefPeripheral :=
  if a7 = p.addr ∧ k = .ack then
    if rw then { p with addressed := .read } else { p with addressed := .write, wc := 0 }
  else { p with addressed := .no }

/-- What one wire event does to the reference peripheral (R122). TX and RX events of a transaction that does not address it
do nothing; S, Sr, P and LOST end the transaction so far, and touch neither `ptr` nor `mem` (log entry 9). -/
def RefPeripheral.onEvent (p : RefPeripheral) (e : WireEvent) : RefPeripheral :=
  match e with
  | .addr a7 rw k => p.onAddr a7 rw k
  | .tx b k => if p.addressed = .write then p.onTx b k else p
  | .rx _ _ => if p.addressed = .read then p.advance else p
  | .p => { p with addressed := .no }
  | .s => { p with addressed := .no }
  | .sr => { p with addressed := .no }
  | .lost => { p with addressed := .no }

/-- How the reference peripheral would answer command `c` of master `m` (R122): it acknowledges its own address only,
NACKs the data byte with `wc = nack_at`, sends `mem[ptr]`, and nobody ever takes the bus. After a START a data byte comes
only if it is addressed, with `wc = 0`; without one, to a TX or RX event of a transaction that does not address it, the
answer is the free one `f` (DESIGN CHOICE, log entry 9). -/
def RefPeripheral.answer (p : RefPeripheral) (f : BusAnswer) (m : Master) (c : BitVec 4) : BusAnswer where
  lostBeforeAddr := false
  addrAck := if m.sa.extractLsb' 1 7 = p.addr then .ack else .nack
  lostBeforeData := false
  txAck :=
    if mcmdStartBit c then (if p.nackAt = some 0 then .nack else .ack)
    else if p.addressed = .write then (if p.nackAt = some p.wc then .nack else .ack)
    else f.txAck
  rxByte := if mcmdStartBit c || p.addressed = .read then p.mem.read p.ptr.toNat else f.rxByte
  otherMaster := false

/-- The environment's answers during one master command (R120), which a free answer may take from the history; `n` numbers
the free answer. -/
def BusEnv.answer (env : BusEnv) (n : Nat) (h : History) (m : Master) (c : BitVec 4) : BusAnswer :=
  let f := Config.freeAnswer n h m.sa m.dr
  match env with
  | .oracle script => script.headD f
  | .reference p => p.answer f m c

/-- The environment after a master command with the given wire events. -/
def BusEnv.after (env : BusEnv) (events : List WireEvent) : BusEnv :=
  match env with
  | .oracle script => .oracle script.tail
  | .reference p => .reference (events.foldl RefPeripheral.onEvent p)

/-- Every command completes on the reference peripheral (BUS_LIVE, R122): the command in work has waited as long as it may.
The oracle never requires it (R120). Log entry 33. -/
def mustComplete (s : State) : Bool :=
  match s.env with
  | .oracle _ => false
  | .reference _ => s.m.busy && Config.freeWait s.trace < s.waited

/-- The environment's own step (00_scope R6, 40_bus_master R123): between two transactions, that is while the master does
not hold the bus, a reference sensor with `relatch` takes its choice. Nothing else moves by itself. -/
def environmentMove (s : State) : State :=
  match s.env with
  | .oracle _ => s
  | .reference p =>
    if p.relatch && !s.m.held then
      { s with env := .reference (p.relatchPoint s.draws s.history), draws := s.draws + 1 }
    else s

end Sys2Proof.Machine
end

