-- ==== Sys2Proof/Machine/Ops.lean ====
section
/-!
DEFINITION. The operations the instructions share: updates of the state's parts, free values, acceptance and completion
of a command (41_engine_ops R142, R143), the phase (R140, R141), ABORT (R152), the issue of a master command
(40_bus_master R103), and reset (70_reset R270).

FPE has no trap entry and no return from one (60_exceptions R247). What stands in their place is here: `issue` and
`accept` raise the model faults of R248, which stop the machine, and `abort` is the error exit of a command.
-/

namespace Sys2Proof.Machine

/-- The outcome of a step of this machine. -/
abbrev Result := Host.Outcome State Fault Refusal

/-! ### The parts of the state -/

/-- The state with other host registers. -/
def State.setRegs (s : State) (r : Regs) : State := { s with regs := r }

/-- The state with another master. -/
def State.setMaster (s : State) (m : Master) : State := { s with m := m }

/-- The state with another sequencer. -/
def State.setSeq (s : State) (q : Seq) : State := { s with seq := q }

/-- The state with other STATUS flags. -/
def State.setStatus (s : State) (st : Status) : State := s.setRegs { s.regs with status := st }

/-- One more free value has been drawn. -/
def State.bump (s : State) (k : Nat) : State := { s with draws := s.draws + k }

/-- STATUS.OVR <- 1 (10_state R23). -/
def State.setOvr (s : State) : State := s.setStatus { s.regs.status with ovr := true }

/-- R84's `reject`: STATUS.BADCMD <- 1 and nothing else. -/
def State.reject (s : State) : State := s.setStatus { s.regs.status with badCmd := true }

/-! ### Acceptance and completion -/

/-- `accept(op)` (41_engine_ops R142), with `first` the first phase of op's rule. -/
def accept (op : HostCmd) (first : Phase) (s : State) : Result :=
  if op.usesBus && !s.regs.status.initDone then .fault (.uninitUse op.code)
  else
    .next
      { s with
        regs := { s.regs with status := { s.regs.status with ovr := false, badCmd := false, busy := true } }
        seq :=
          { s.seq with
            op := some op
            phase := first
            issued := false
            i := 0
            t := 0
            err := 0
            rx := false
            sa := s.regs.sa
            ra := s.regs.ra
            wd := s.regs.wdata
            n := s.regs.count } }

/-- `done(results)` (41_engine_ops R143): the results, BUSY <- 0 and the sequencer IDLE, in one step. -/
def finishCommand (results : Regs → Regs) (s : State) : State :=
  let r := results s.regs
  { s with
    regs := { r with status := { r.status with busy := false } }
    seq := { s.seq with op := none, phase := .idle, issued := false } }

/-- What a command does in one step: its acceptance while no command runs, its next sequencer step while it is the
running command, and OVR while another command runs (41_engine_ops R142, R144; log entries 3 and 29). -/
def runCommand (op : HostCmd) (start body : State → Result) (s : State) : Result :=
  if s.regs.status.busy then
    if s.seq.op = some op then body s else .next s.setOvr
  else start s

/-! ### Master commands -/

/-- The OP that a UNINIT_USE raised by an issue carries as info; 0x0 if no command runs (log entry 25). -/
def opInfo (s : State) : BitVec 4 :=
  match s.seq.op with
  | some op => op.code
  | none => 0

/-- `issue(c)` (40_bus_master R103). -/
def issue (c : BitVec 4) (s : State) : Result :=
  if !s.m.en then .fault (.uninitUse (opInfo s))
  else if !mcmdLegal c then .fault (.masterProtocol c)
  else if mcmdNeedsHeld c && !s.m.held then .fault (.masterProtocol c)
  else .next (s.setMaster { s.m.clearErrors with cmd := c, busy := true })

/-- `m.SA <- (sa7 << 1) | rw` (30_encoding R88). -/
def setAddr (a : BusAddr) (rw : Bool) (s : State) : State := s.setMaster { s.m with sa := addrByte a rw }

/-- `m.DR <- b`. -/
def setData (b : Byte) (s : State) : State := s.setMaster { s.m with dr := b }

/-! ### Phases -/

/-- `seq.phase <- p`, before its issue. -/
def goto (p : Phase) (s : State) : State := s.setSeq { s.seq with phase := p, issued := false }

/-- The mark that the phase's master command has been issued. -/
def markIssued (b : Bool) (s : State) : State := s.setSeq { s.seq with issued := b }

/-- One sequencer step of a phase (41_engine_ops R140, R141): first the register settings `setup` together with
`issue(c)`; then nothing until `m.BUSY = 0`; then the one reading of `m.STAT`, which `judge` makes (log entry 5). -/
def phaseStep (setup : State → State) (c : BitVec 4) (judge : State → State) (s : State) : Result :=
  if s.seq.issued then
    if s.m.busy then .next s else .next (judge (markIssued false s))
  else
    match issue c (setup s) with
    | .next t => .next (markIssued true t)
    | .fault r => .fault r
    | .refused r => .refused r

/-- `ABORT(s)` (41_engine_ops R152) up to its STOP: the code is captured before any STOP, and the STOP is issued only if
the bus is held. -/
def abort (s : State) : State :=
  goto (if s.m.held then .stopAbort else .done) (s.setSeq { s.seq with err := s.m.errCode })

/-- `if s.ERROR = 1: ABORT(s)`, else go on. -/
def unlessError (next : State → State) (s : State) : State := if s.m.error then abort s else next s

/-- The phase STOP_ABORT (41_engine_ops R152): `phase(0x4)`, its status discarded. -/
def stopAbortStep (s : State) : Result := phaseStep id 0x4 (goto .done) s

/-! ### The read transaction -/

/-- First phase of RDTX (41_engine_ops R146): START, address with R/W = 0, register address; its status is not
examined. -/
def rdtxWrite (a : BusAddr) (reg : Byte) (s : State) : Result :=
  phaseStep (fun s => setData reg (setAddr a false s)) 0x3 (goto .startAddrR) s

/-- Second phase of RDTX (41_engine_ops R146): single-shot read; `seq.rx <- ok`, then `finish`. -/
def rdtxRead (a : BusAddr) (finish : State → State) (s : State) : Result :=
  phaseStep (setAddr a true) 0x7 (fun s => finish (s.setSeq { s.seq with rx := !s.m.error })) s

/-- `b` of RDTX (41_engine_ops R146): `m.DR` if the byte was received, else a free byte. -/
def rdtxByte (s : State) : Byte := if s.seq.rx then s.m.dr else Config.freeByte s.draws

/-- The state after `b` has been taken: one draw if it was a free byte. -/
def rdtxTaken (s : State) : State := if s.seq.rx then s else s.bump 1

/-! ### Reset -/

/-- One reset (70_reset R270): every register of the unit takes its reset value. The fault, the trace, the environment
and the agents outside the unit are not reached (R270, R273). -/
def applyReset (s : State) : State :=
  { s with regs := Regs.reset, m := Master.reset, seq := Seq.reset }

/-- The state with a fault recorded; only the first is kept (60_exceptions R248; log entry 21). -/
def State.record (s : State) (r : Fault) : State :=
  match s.fault with
  | some _ => s
  | none => { s with fault := some r }

end Sys2Proof.Machine
end

