-- ==== Sys2Proof/Machine/Operands.lean ====
section
/-!
DEFINITION. Where the commands get their operands (30_encoding R85), the choice of master command in a burst
(41_engine_ops R156, R161), the sensor's register addresses (42_sensor_io R180, R182; 43_estimator R209) and the
assembly of a raw axis (42_sensor_io R181).
-/

namespace Sys2Proof.Machine

/-- `P_BUF_LEN` (00_scope R7). -/
def bufLen : Nat := 16

/-- BUF[i] (10_state R36). -/
def bufByte (r : Regs) (i : Nat) : Byte := r.buf[i]?.getD 0

/-- `BUF[i] <- b`. -/
def setBufByte (r : Regs) (i : Nat) (b : Byte) : Regs := { r with buf := r.buf.setIfInBounds i b }

/-- `rxcode(i, n)` (41_engine_ops R156). -/
def rxcode (i n : Nat) : BitVec 4 :=
  if i = 0 then (if n = 1 then 0x7 else 0xB)
  else if i + 1 = n then 0x5
  else 0x9

/-- `txcode(i, n)` (41_engine_ops R161). -/
def txcode (i n : Nat) : BitVec 4 := if i + 1 = n then 0x5 else 0x1

/-- `assemble(hi, lo)` (42_sensor_io R181): hi ++ lo, read as two's complement. -/
def assemble (hi lo : Byte) : BitVec 16 := hi ++ lo

/-- `seq.tmp[k]` (10_state R39). -/
def tmpByte (q : Seq) (k : Nat) : Byte := q.tmp[k]?.getD 0

/-- The three axes from the six gathered bytes (42_sensor_io R182). -/
def assembleTmp (q : Seq) : Axes (BitVec 16) where
  x := assemble (tmpByte q 1) (tmpByte q 0)
  y := assemble (tmpByte q 3) (tmpByte q 2)
  z := assemble (tmpByte q 5) (tmpByte q 4)

/-- The register address of the `t`th read: ORDER = X.L, X.H, Y.L, Y.H, Z.L, Z.H (42_sensor_io R182, R184). -/
def orderReg (regs : Axes HiLo) (t : Nat) : Byte :=
  match t with
  | 0 => regs.x.lo
  | 1 => regs.x.hi
  | 2 => regs.y.lo
  | 3 => regs.y.hi
  | 4 => regs.z.lo
  | _ => regs.z.hi

/-- `P_GYRO_TIER_SOURCE`: FPE takes GYRO_CFG (43_estimator R209; log entry 14). -/
def gyroTierSource : GyroTierSource := .gyroCfg

/-- The configuration register that selects the gyro tier (43_estimator R209). -/
def gyroCfgReg (src : GyroTierSource) (map : SensorMap) : Byte :=
  match src with
  | .gyroCfg => map.gyrCfg
  | .accelCfg => map.accCfg

/-- The MPU-6050 register map, the reference instance of 42_sensor_io R180. -/
def mpu6050 : SensorMap where
  accData := { x := { hi := 0x3B, lo := 0x3C }, y := { hi := 0x3D, lo := 0x3E }, z := { hi := 0x3F, lo := 0x40 } }
  gyrData := { x := { hi := 0x43, lo := 0x44 }, y := { hi := 0x45, lo := 0x46 }, z := { hi := 0x47, lo := 0x48 } }
  accCfg := 0x1C
  gyrCfg := 0x1B

end Sys2Proof.Machine
end

