-- ==== Sys2Proof/Machine/HostPort.lean ====
section
/-!
DEFINITION. The host register window: which accesses are admitted (20_memory R62), what each offset reads as and what a
write does (10_state R21, 20_memory R63).
-/

namespace Sys2Proof.Machine

/-- The host address of the register at an offset: `P_BASE + off` (20_memory R62; log entry 16). -/
def hostAddress (off : Nat) : Nat := Config.pBase * 0x100 + off

/-- An access that R62 admits: 4 bytes, `off` a multiple of 4 in 0x00..0xFC. -/
def admitted (off width : Nat) : Bool := width == 4 && off % 4 == 0 && off ≤ 0xFC

/-- BUFk as a word (10_state R36): byte j of the register is BUF[4k+j]. -/
def bufWord (r : Regs) (k : Nat) : Word :=
  bufByte r (4 * k + 3) ++ bufByte r (4 * k + 2) ++ bufByte r (4 * k + 1) ++ bufByte r (4 * k)

/-- A write of BUFk. -/
def setBufWord (r : Regs) (k : Nat) (v : Word) : Regs :=
  setBufByte
    (setBufByte
      (setBufByte (setBufByte r (4 * k) (v.extractLsb' 0 8)) (4 * k + 1) (v.extractLsb' 8 8))
      (4 * k + 2) (v.extractLsb' 16 8))
    (4 * k + 3) (v.extractLsb' 24 8)

/-- `MemRead` (20_memory R62): the value of the register at `off`; CMD and the reserved offsets read 0, the RAW registers
read sign-extended (10_state R21, R32). -/
def readReg (r : Regs) (off : Nat) : Word :=
  match off with
  | 0x04 => r.status.word
  | 0x08 => r.sa.setWidth 32
  | 0x0C => r.ra.setWidth 32
  | 0x10 => r.wdata.setWidth 32
  | 0x14 => r.count.setWidth 32
  | 0x18 => r.rdata.setWidth 32
  | 0x1C => r.result.setWidth 32
  | 0x20 => r.imuSa.setWidth 32
  | 0x24 => r.cfgA.setWidth 32
  | 0x28 => r.cfgG.setWidth 32
  | 0x30 => r.accRaw.x.signExtend 32
  | 0x34 => r.accRaw.y.signExtend 32
  | 0x38 => r.accRaw.z.signExtend 32
  | 0x3C => r.gyrRaw.x.signExtend 32
  | 0x40 => r.gyrRaw.y.signExtend 32
  | 0x44 => r.gyrRaw.z.signExtend 32
  | 0x50 => r.acc.x
  | 0x54 => r.acc.y
  | 0x58 => r.acc.z
  | 0x5C => r.gyr.x
  | 0x60 => r.gyr.y
  | 0x64 => r.gyr.z
  | 0x70 => r.tiltX
  | 0x74 => r.tiltY
  | 0x78 => r.yaw
  | 0x80 => bufWord r 0
  | 0x84 => bufWord r 1
  | 0x88 => bufWord r 2
  | 0x8C => bufWord r 3
  | _ => 0

/-- The write of an RW register (10_state R24 to R36): the field bits it keeps. `none` at every other offset: CMD, the RO
registers and the reserved offsets. -/
def writeRw (r : Regs) (off : Nat) (v : Word) : Option Regs :=
  match off with
  | 0x08 => some { r with sa := v.setWidth 7 }
  | 0x0C => some { r with ra := v.setWidth 8 }
  | 0x10 => some { r with wdata := v.setWidth 8 }
  | 0x14 => some { r with count := v.setWidth 8 }
  | 0x20 => some { r with imuSa := v.setWidth 7 }
  | 0x30 => some { r with accRaw := { r.accRaw with x := v.setWidth 16 } }
  | 0x34 => some { r with accRaw := { r.accRaw with y := v.setWidth 16 } }
  | 0x38 => some { r with accRaw := { r.accRaw with z := v.setWidth 16 } }
  | 0x3C => some { r with gyrRaw := { r.gyrRaw with x := v.setWidth 16 } }
  | 0x40 => some { r with gyrRaw := { r.gyrRaw with y := v.setWidth 16 } }
  | 0x44 => some { r with gyrRaw := { r.gyrRaw with z := v.setWidth 16 } }
  | 0x50 => some { r with acc := { r.acc with x := v } }
  | 0x54 => some { r with acc := { r.acc with y := v } }
  | 0x58 => some { r with acc := { r.acc with z := v } }
  | 0x5C => some { r with gyr := { r.gyr with x := v } }
  | 0x60 => some { r with gyr := { r.gyr with y := v } }
  | 0x64 => some { r with gyr := { r.gyr with z := v } }
  | 0x80 => some (setBufWord r 0 v)
  | 0x84 => some (setBufWord r 1 v)
  | 0x88 => some (setBufWord r 2 v)
  | 0x8C => some (setBufWord r 3 v)
  | _ => none

/-- A write to CMD (20_memory R63, 30_encoding R84): OVR while BUSY; else the word is decoded, and rejected with BADCMD
or handed to `run`, which is `exec`. -/
def writeCmd (run : Instr → State → Result) (w : Word) (s : State) : Result :=
  if s.regs.status.busy then .next s.setOvr
  else
    match decodeCmd w with
    | .ok i => run i s
    | .error _ => .next s.reject

/-- `MemWrite` (20_memory R62, R63). -/
def memWrite (run : Instr → State → Result) (off width : Nat) (v : Word) (s : State) : Result :=
  if !admitted off width then .fault (.hostAccess off width)
  else if off = 0 then writeCmd run v s
  else
    match writeRw s.regs off v with
    | none => .next s
    | some r => if s.regs.status.busy then .next s.setOvr else .next (s.setRegs r)

/-- `MemRead` by the host (20_memory R62): the value goes to the end of `values`; no other effect (R63). -/
def memRead (off width : Nat) (s : State) : Result :=
  if !admitted off width then .fault (.hostAccess off width)
  else .next { s with values := s.values ++ [readReg s.regs off] }

/-- `POLL` (30_encoding R90): one read of STATUS; the host goes on when BUSY = 0 and reads again otherwise. -/
def pollDone (s : State) : Bool := !(readReg s.regs 0x04).getLsbD 0

end Sys2Proof.Machine
end

