-- ==== Sys2Proof/Machine/Master.lean ====
section
/-!
DEFINITION. The master's completion (40_bus_master R104, R105, R113) and the seven master commands (R106 to R112).
-/

namespace Sys2Proof.Machine

/-- What a part of a master command leaves: the master, the wire events so far, and whether the command goes on with
its data byte. -/
structure Progress where
  m : Master
  events : List WireEvent
  /-- go on with the data byte -/
  more : Bool
  /-- arbitration was lost: no STOP follows -/
  lost : Bool
  deriving DecidableEq, Repr

/-- `lose()` (R113), after the events so far. -/
def lose (m : Master) (events : List WireEvent) : Progress where
  m := { m with arblst := true, error := true, held := false }
  events := events ++ [.lost]
  more := false
  lost := true

/-- The START part of `complete(c)` (R105): S or Sr, arbitration, the address byte and its acknowledge. -/
def startPart (a : BusAnswer) (c : BitVec 4) (m : Master) : Progress :=
  if mcmdStartBit c then
    let ev := [if m.held then WireEvent.sr else WireEvent.s]
    if a.lostBeforeAddr then lose m ev
    else
      let rw := m.sa.getLsbD 0
      let held := { m with held := true, dir := rw }
      let ev' := ev ++ [.addr (m.sa.extractLsb' 1 7) rw a.addrAck]
      match a.addrAck with
      | .ack => { m := held, events := ev', more := true, lost := false }
      | .nack => { m := { held with adrack := true, error := true }, events := ev', more := false, lost := false }
  else { m := m, events := [], more := true, lost := false }

/-- The RUN part of `complete(c)` (R105): one byte sent or received. -/
def runPart (a : BusAnswer) (c : BitVec 4) (p : Progress) : Progress :=
  if mcmdRunBit c && p.more then
    if a.lostBeforeData then lose p.m p.events
    else if p.m.dir then
      { p with
        m := { p.m with dr := a.rxByte }
        events := p.events ++ [.rx a.rxByte (if mcmdAckBit c then .ack else .nack)] }
    else
      match a.txAck with
      | .ack => { p with events := p.events ++ [.tx p.m.dr .ack] }
      | .nack =>
        { p with m := { p.m with datack := true, error := true }, events := p.events ++ [.tx p.m.dr .nack] }
  else p

/-- The tail of `complete(c)` (R105): the STOP. A STOP alone on a bus that is not held does nothing (R108). -/
def stopPart (c : BitVec 4) (p : Progress) : Progress :=
  if mcmdStopBit c && !p.lost && (mcmdRunBit c || p.m.held) then
    { p with m := { p.m with held := false }, events := p.events ++ [.p] }
  else p

/-- `complete(c)` of R105 as a function of the environment's answers: START, RUN, STOP. -/
def masterProgress (a : BusAnswer) (c : BitVec 4) (m : Master) : Progress :=
  stopPart c (runPart a c (startPart a c m))

/-- The master after its completion step (R104): `complete(c)`, then BUSY <- 0; the other half of BUSBSY is drawn. -/
def masterAfter (a : BusAnswer) (c : BitVec 4) (m : Master) : Master :=
  { (masterProgress a c m).m with busy := false, otherMaster := a.otherMaster }

/-- The wire events of the completion. -/
def masterEvents (a : BusAnswer) (c : BitVec 4) (m : Master) : List WireEvent := (masterProgress a c m).events

/-- What the environment answers to command `c` in this state. -/
def busAnswer (c : BitVec 4) (s : State) : BusAnswer := s.env.answer s.draws s.history s.m c

/-- The master agent's step on command `c` (R104): completion, atomically, with its wire events. -/
def masterStep (c : BitVec 4) (s : State) : State :=
  let a := busAnswer c s
  let ev := masterEvents a c s.m
  { s with
    m := masterAfter a c s.m
    trace := s.trace ++ ev
    env := s.env.after ev
    draws := s.draws + 1 }

/-- A master command, whole: while the master is executing it, its completion (R104, R105); while the master is idle,
its issue with the checks of R103 and then its completion; nothing while the master executes another command, since a
phase is issued only after `wait_idle` (41_engine_ops R141). Log entry 4. -/
def runMcmd (c : BitVec 4) (s : State) : Result :=
  if s.m.busy then
    if s.m.cmd = c then .next (masterStep c s) else .next s
  else
    match issue c s with
    | .next t => .next (masterStep c t)
    | .fault r => .fault r
    | .refused r => .refused r

/-- MCMD 0x1 RUN, burst-continue (R106). -/
def execMcmdRun (s : State) : Result := runMcmd 0x1 s

/-- MCMD 0x3 START+RUN, burst-start (R107). -/
def execMcmdStartRun (s : State) : Result := runMcmd 0x3 s

/-- MCMD 0x4 STOP (R108). -/
def execMcmdStop (s : State) : Result := runMcmd 0x4 s

/-- MCMD 0x5 RUN+STOP, burst-finish (R109). -/
def execMcmdRunStop (s : State) : Result := runMcmd 0x5 s

/-- MCMD 0x7 START+RUN+STOP, single-shot (R110). -/
def execMcmdStartRunStop (s : State) : Result := runMcmd 0x7 s

/-- MCMD 0x9 RUN+ACK, receive burst-continue with acknowledge (R111). -/
def execMcmdRunAck (s : State) : Result := runMcmd 0x9 s

/-- MCMD 0xB START+RUN+ACK, receive burst-start with acknowledge (R112). -/
def execMcmdStartRunAck (s : State) : Result := runMcmd 0xB s

end Sys2Proof.Machine
end

