-- ==== Sys2Proof/Machine/Agents.lean ====
section
/-!
DEFINITION. One move of each agent (00_scope R6), and which agent moves next (20_memory R71; log entries 2, 6 and 33). `run`
is `exec`: the host's CMD write, the sequencer and the master fetch an instruction and run it.
-/

namespace Sys2Proof.Machine

/-- The host's move: its next action, or nothing if it has none. -/
def hostMove (run : Instr → State → Result) (s : State) : Result :=
  match s.host with
  | [] => .next s
  | .write off width v :: rest => memWrite run off width v { s with host := rest }
  | .read off width :: rest => memRead off width { s with host := rest }
  | .poll :: rest => if pollDone s then .next { s with host := rest } else .next s

/-- The sequencer's move: one step of the accepted command (41_engine_ops R140); nothing while no command runs. -/
def sequencerMove (run : Instr → State → Result) (s : State) : Result :=
  match s.seq.op with
  | some op => if s.regs.status.busy then run op.instr s else .next s
  | none => .next s

/-- The master's move: enabled only while m.BUSY = 1 (40_bus_master R104), it completes m.CMD; a reserved code there
faults, so that the move is total (30_encoding R87). -/
def masterMove (run : Instr → State → Result) (s : State) : Result :=
  if s.m.busy then
    match decodeMcmd s.m.cmd with
    | .ok i => run i s
    | .error _ => .fault (.masterProtocol s.m.cmd)
  else .next s

/-- One move of an agent. -/
def agentMove (run : Instr → State → Result) (a : Agent) (s : State) : Result :=
  match a with
  | .host => hostMove run s
  | .sequencer => sequencerMove run s
  | .master => masterMove run s
  | .environment => .next (environmentMove s)
  | .reset => .next (applyReset s)

/-- The agent whose turn it is: the one laid down, else a free one. -/
def chosenAgent (s : State) : Agent := s.sched.headD (Config.freeAgent s.draws s.history)

/-- The master's command must complete, so that the chosen agent does not get its turn. A reset always gets it, since it may
act at any step (70_reset R270), and the master has no need to take its own. Log entry 33. -/
def preempted (s : State) : Bool := mustComplete s && !(chosenAgent s == .reset || chosenAgent s == .master)

/-- The agent that moves next: the chosen one, or the master where its command must complete first. -/
def nextAgent (s : State) : Agent := if preempted s then .master else chosenAgent s

/-- What the history keeps of a step in which `a` moves (40_bus_master R120; log entry 32). -/
def pastStep (a : Agent) (s : State) : PastStep :=
  match a with
  | .host => .host s.host.head?
  | .sequencer => .sequencer s.seq.op s.seq.phase
  | .master => .master
  | .environment => .environment
  | .reset => .reset

/-- The state once that choice is made: an order laid down has lost its head unless that agent did not get its turn, the
wait of the command in work is counted, and the step is entered into the history. -/
def scheduled (s : State) : State :=
  { s with
    sched := if preempted s then s.sched else s.sched.tail
    waited := if s.m.busy && nextAgent s != .master then s.waited + 1 else 0
    draws := s.draws + if s.sched = [] then 1 else 0
    past := s.past ++ [pastStep (nextAgent s) s] }

/-- One step of the whole machine. A recorded fault leaves no agent an enabled step (60_exceptions R248). -/
def stepWith (run : Instr → State → Result) (s : State) : Result :=
  match s.fault with
  | some r => .fault r
  | none => agentMove run (nextAgent s) (scheduled s)

/-- A host that is about to write the word `w` to CMD, and moves next. -/
def placeCmd (w : Word) (s : State) : State :=
  { s with host := .write 0x00 4 w :: s.host, sched := .host :: s.sched, waited := 0 }

/-- A master that is executing the code `c`, and moves next. -/
def placeMcmd (c : BitVec 4) (s : State) : State :=
  { s with m := { s.m with busy := true, cmd := c }, sched := .master :: s.sched, waited := 0 }

/-- An encoded object placed where its agent fetches it. -/
def placeEncoded (e : Encoded) (s : State) : State :=
  match e with
  | .cmd w => placeCmd w s
  | .mcmd c => placeMcmd c s

end Sys2Proof.Machine
end

