-- ==== Sys2Proof/Machine/Engine.lean ====
section
/-!
DEFINITION. The engine commands INIT, READ_REG, WRITE_REG, BURST_READ and BURST_WRITE (41_engine_ops). Each meaning is
the command's acceptance and, while it runs, its next sequencer step (log entry 3).
-/

namespace Sys2Proof.Machine

/-! ### INIT (R145) -/

/-- The phases of INIT (R145): COMPUTE configures the master and performs the platform effect; DONE sets INIT_DONE. -/
def initBody (s : State) : Result :=
  match s.seq.phase with
  | .compute =>
    .next (goto .done { s with m := { s.m with en := true, tpr := Config.tpr }, platform := some Config.platform })
  | .done => .next (finishCommand (fun r => { r with status := { r.status with initDone := true } }) s)
  | _ => .next s

/-- INIT (R145). -/
def execInit (s : State) : Result := runCommand .init (accept .init .compute) initBody s

/-! ### READ_REG (R147) -/

/-- The phases of READ_REG: RDTX, then RDATA <- b. -/
def readRegBody (s : State) : Result :=
  match s.seq.phase with
  | .startAddrW => rdtxWrite s.seq.sa s.seq.ra s
  | .startAddrR => rdtxRead s.seq.sa (goto .done) s
  | .done => .next (finishCommand (fun r => { r with rdata := rdtxByte s }) (rdtxTaken s))
  | _ => .next s

/-- READ_REG (R147). -/
def execReadReg (s : State) : Result := runCommand .readReg (accept .readReg .startAddrW) readRegBody s

/-! ### WRITE_REG (R150) and the write phase the bursts share -/

/-- The first phase of WRITE_REG and of the bursts: START, address with R/W = 0, register address; an error aborts. -/
def addressPhase (next : Phase) (s : State) : Result :=
  phaseStep (fun s => setData s.seq.ra (setAddr s.seq.sa false s)) 0x3 (unlessError (goto next)) s

/-- The DONE step of WRITE_REG and the bursts: RESULT <- seq.err, which is 0 unless a phase failed (R150, R152). -/
def resultDone (s : State) : Result := .next (finishCommand (fun r => { r with result := s.seq.err }) s)

/-- The phases of WRITE_REG. -/
def writeRegBody (s : State) : Result :=
  match s.seq.phase with
  | .startAddrW => addressPhase .sendByte s
  | .sendByte => phaseStep (setData s.seq.wd) 0x5 (unlessError (goto .done)) s
  | .stopAbort => stopAbortStep s
  | .done => resultDone s
  | _ => .next s

/-- WRITE_REG (R150). -/
def execWriteReg (s : State) : Result := runCommand .writeReg (accept .writeReg .startAddrW) writeRegBody s

/-! ### The bursts -/

/-- Acceptance of a burst: R84's check of COUNT, then `accept`; a count of 0 goes straight to DONE (R162). -/
def burstStart (op : HostCmd) (s : State) : Result :=
  if bufLen < s.regs.count.toNat then .next s.reject
  else accept op (if s.regs.count = 0 then .done else .startAddrW) s

/-- After byte `seq.i`: the next byte's phase, or DONE after the last one. -/
def nextByte (more : Phase) (s : State) : State :=
  if s.seq.i.toNat + 1 = s.seq.n.toNat then goto .done s
  else goto more (s.setSeq { s.seq with i := s.seq.i + 1 })

/-- `BUF[seq.i] <- m.DR`, in the step after the byte's phase (R157). -/
def storeByte (s : State) : State := s.setRegs (setBufByte s.regs s.seq.i.toNat s.m.dr)

/-- The receive code of byte `seq.i` (R156). -/
def rxNow (s : State) : BitVec 4 := rxcode s.seq.i.toNat s.seq.n.toNat

/-- The transmit code of byte `seq.i` (R161). -/
def txNow (s : State) : BitVec 4 := txcode s.seq.i.toNat s.seq.n.toNat

/-- The judgement of a received byte of BURST_READ: on an error ABORT, else store it and go on (R155). -/
def received : State → State := unlessError (fun s => nextByte .recvByte (storeByte s))

/-- The phases of BURST_READ. -/
def burstReadBody (s : State) : Result :=
  match s.seq.phase with
  | .startAddrW => addressPhase .startAddrR s
  | .startAddrR => phaseStep (setAddr s.seq.sa true) (rxNow s) received s
  | .recvByte => phaseStep id (rxNow s) received s
  | .stopAbort => stopAbortStep s
  | .done => resultDone s
  | _ => .next s

/-- BURST_READ (R155). -/
def execBurstRead (s : State) : Result := runCommand .burstRead (burstStart .burstRead) burstReadBody s

/-- The phases of BURST_WRITE. -/
def burstWriteBody (s : State) : Result :=
  match s.seq.phase with
  | .startAddrW => addressPhase .sendByte s
  | .sendByte =>
    phaseStep (setData (bufByte s.regs s.seq.i.toNat)) (txNow s) (unlessError (nextByte .sendByte)) s
  | .stopAbort => stopAbortStep s
  | .done => resultDone s
  | _ => .next s

/-- BURST_WRITE (R160). -/
def execBurstWrite (s : State) : Result := runCommand .burstWrite (burstStart .burstWrite) burstWriteBody s

end Sys2Proof.Machine
end

