-- ==== Sys2Proof/Machine/Float.lean ====
section
/-!
DEFINITION. IEEE 754 arithmetic on bit patterns: the binary32 operations ⊕ ⊖ ⊗ ⊘ √ and the ordered comparison of
43_estimator R201 and 00_scope R10, rounded to nearest, ties to even, subnormals kept; and the rounding to binary64 that
`P_SCALE_EVAL = B64_THEN_B32` needs (R205). Each operation computes the exact result as a rational and rounds once.
A NaN result is `qNaN` inside the datapath; what reaches a register is a free NaN (log entry 11).
-/

namespace Sys2Proof.Machine

/-- A floating-point value taken apart; a finite one is ±`m`·2^`e`. -/
inductive FloatVal where
  | nan
  | inf (neg : Bool)
  | fin (neg : Bool) (m : Nat) (e : Int)
  deriving DecidableEq, Repr

/-- The floor of log2 (num / den), for positive num and den. -/
def floorLog2 (num den : Nat) : Int :=
  let k : Int := (num.log2 : Int) - (den.log2 : Int)
  let fits : Bool := if 0 ≤ k then den * 2 ^ k.toNat ≤ num else den ≤ num * 2 ^ (-k).toNat
  if fits then k else k - 1

/-- The magnitude bits of num / den rounded to nearest even, in a format with `prec` bits of significand whose smallest
subnormal is 2^`emin`. The exponent field simply grows past the largest finite value; the caller caps it. -/
def roundMag (prec : Nat) (emin : Int) (num den : Nat) : Nat :=
  if num = 0 then 0
  else
    let e : Int := max emin (floorLog2 num den - ((prec : Int) - 1))
    let n := if e < 0 then num * 2 ^ (-e).toNat else num
    let d := if e < 0 then den else den * 2 ^ e.toNat
    let q := n / d
    let r := n % d
    let up : Bool := d < 2 * r || (2 * r == d && q % 2 == 1)
    (e - emin).toNat * 2 ^ (prec - 1) + (if up then q + 1 else q)

/-- The binary32 magnitude bits of +∞. -/
def inf32 : Nat := 0x7F800000

/-- Sign and magnitude bits put together. -/
def pack32 (neg : Bool) (mag : Nat) : F32 := BitVec.ofNat 32 (mag + if neg then 0x80000000 else 0)

/-- `rnd32` of ±num / den; overflow gives ±∞ (R201). -/
def round32 (neg : Bool) (num den : Nat) : F32 := pack32 neg (min (roundMag 24 (-149) num den) inf32)

/-- `rnd32` of ±m·2^e. -/
def roundDyadic32 (neg : Bool) (m : Nat) (e : Int) : F32 :=
  if 0 ≤ e then round32 neg (m * 2 ^ e.toNat) 1 else round32 neg m (2 ^ (-e).toNat)

/-- The NaN that stands for any NaN inside the datapath. -/
def qNaN : F32 := 0x7FC00000

/-- The magnitude bits of a pattern. -/
def magOf (x : F32) : Nat := x.toNat % 0x80000000

/-- The sign bit of a pattern. -/
def signOf (x : F32) : Bool := x.getLsbD 31

/-- The pattern is a NaN. -/
def isNaN (x : F32) : Bool := inf32 < magOf x

/-- A binary32 pattern taken apart. -/
def unpack32 (x : F32) : FloatVal :=
  let mag := magOf x
  let ex : Nat := mag / 2 ^ 23
  let fr : Nat := mag % 2 ^ 23
  if inf32 < mag then .nan
  else if mag = inf32 then .inf (signOf x)
  else if ex = 0 then .fin (signOf x) fr (-149)
  else .fin (signOf x) (fr + 2 ^ 23) ((ex : Int) - 150)

/-- A finite value as a signed integer multiple of 2^`lo`, for `lo` not above its exponent. -/
def scaledInt (neg : Bool) (m : Nat) (e lo : Int) : Int :=
  let a : Int := ((m * 2 ^ (e - lo).toNat : Nat) : Int)
  if neg then -a else a

/-- The pattern with its sign bit flipped. -/
def fneg (x : F32) : F32 := pack32 (!signOf x) (magOf x)

/-- `x ⊕ y`. An exact zero sum is +0.0 unless both operands are −0.0. -/
def fadd (x y : F32) : F32 :=
  match unpack32 x, unpack32 y with
  | .nan, _ => qNaN
  | _, .nan => qNaN
  | .inf a, .inf b => if a = b then pack32 a inf32 else qNaN
  | .inf a, .fin _ _ _ => pack32 a inf32
  | .fin _ _ _, .inf b => pack32 b inf32
  | .fin a m e, .fin b k f =>
    let lo := min e f
    let sum := scaledInt a m e lo + scaledInt b k f lo
    if sum = 0 then pack32 (a && b) 0 else roundDyadic32 (sum < 0) sum.natAbs lo

/-- `x ⊖ y`. -/
def fsub (x y : F32) : F32 := fadd x (fneg y)

/-- `x ⊗ y`. -/
def fmul (x y : F32) : F32 :=
  match unpack32 x, unpack32 y with
  | .nan, _ => qNaN
  | _, .nan => qNaN
  | .inf a, .inf b => pack32 (a != b) inf32
  | .inf a, .fin b m _ => if m = 0 then qNaN else pack32 (a != b) inf32
  | .fin a m _, .inf b => if m = 0 then qNaN else pack32 (a != b) inf32
  | .fin a m e, .fin b k f => roundDyadic32 (a != b) (m * k) (e + f)

/-- `x ⊘ y`. 0 ⊘ 0 and ∞ ⊘ ∞ are NaN; a finite non-zero value ⊘ ±0 is ±∞. -/
def fdiv (x y : F32) : F32 :=
  match unpack32 x, unpack32 y with
  | .nan, _ => qNaN
  | _, .nan => qNaN
  | .inf _, .inf _ => qNaN
  | .inf a, .fin b _ _ => pack32 (a != b) inf32
  | .fin a _ _, .inf b => pack32 (a != b) 0
  | .fin a m e, .fin b k f =>
    if k = 0 then (if m = 0 then qNaN else pack32 (a != b) inf32)
    else if f ≤ e then round32 (a != b) (m * 2 ^ (e - f).toNat) k
    else round32 (a != b) m (k * 2 ^ (f - e).toNat)

/-- The integer square root of `v`, found bit by bit from bit `bits - 1` down, above the root `r` found so far. -/
def isqrtFrom (v : Nat) (bits r : Nat) : Nat :=
  match bits with
  | 0 => r
  | b + 1 => isqrtFrom v b (if (r + 2 ^ b) * (r + 2 ^ b) ≤ v then r + 2 ^ b else r)

/-- `√ x`. The significand is widened so that the integer root has at least 30 bits; a last bit records whether the root
is exact, so the one rounding at the end is that of the exact root. −0.0 gives −0.0, another negative value NaN. -/
def fsqrt (x : F32) : F32 :=
  match unpack32 x with
  | .nan => qNaN
  | .inf neg => if neg then qNaN else x
  | .fin neg m e =>
    if m = 0 then x
    else if neg then qNaN
    else
      let k : Nat := if e % 2 = 0 then 60 else 61
      let v := m * 2 ^ k
      let r := isqrtFrom v 48 0
      roundDyadic32 false (2 * r + if r * r = v then 0 else 1) ((e - (k : Int)) / 2 - 1)

/-- The order of a non-NaN pattern as an integer; ±0 are equal. -/
def orderKey (x : F32) : Int := if signOf x then -(magOf x : Int) else (magOf x : Int)

/-- `x > y`, the IEEE ordered comparison: false when either operand is a NaN (00_scope R10). -/
def fgt (x y : F32) : Bool := !isNaN x && !isNaN y && orderKey y < orderKey x

/-- The `n`th free NaN: any sign, any non-zero significand (R201; log entry 11). -/
def someNaN (n : Nat) : F32 :=
  let d := (Config.freeNaN n).toNat
  let frac := if d % 2 ^ 23 = 0 then 2 ^ 22 else d % 2 ^ 23
  pack32 (decide (2 ^ 23 ≤ d)) (inf32 + frac)

/-- What a register receives for the result `x`: a NaN result has an unspecified pattern (R201). -/
def freeIfNaN (n : Nat) (x : F32) : F32 := if isNaN x then someNaN n else x

/-! ### Integers, the scaler's divisions -/

/-- `i2f(r)` (43_estimator R202): exact. -/
def i2f (r : BitVec 16) : F32 := round32 r.msb r.toInt.natAbs 1

/-- A divisor literal of 43_estimator R204 as an exact rational num / den. -/
structure Literal where
  num : Nat
  den : Nat
  deriving DecidableEq, Repr

/-- The binary64 pattern of a positive rational, within the format's finite range. -/
def round64 (num den : Nat) : Nat := roundMag 53 (-1074) num den

/-- A finite positive binary64 pattern as (m, e), its value m·2^e. -/
def unpack64 (mag : Nat) : Nat × Int :=
  let ex : Nat := mag / 2 ^ 52
  let fr : Nat := mag % 2 ^ 52
  if ex = 0 then (fr, -1074) else (fr + 2 ^ 52, (ex : Int) - 1075)

/-- r / (m·2^e) as a rational. -/
def overDyadic (r m : Nat) (e : Int) : Nat × Nat :=
  if 0 ≤ e then (r, m * 2 ^ e.toNat) else (r * 2 ^ (-e).toNat, m)

/-- `P_SCALE_EVAL = B32`: `i2f(r) ⊘ rnd32(d)` (R205). -/
def scaleB32 (r : BitVec 16) (d : Literal) : F32 := fdiv (i2f r) (round32 false d.num d.den)

/-- `P_SCALE_EVAL = B64_THEN_B32`: `rnd32(r / rnd64(d))`, the quotient rounded to binary64 first (R205). -/
def scaleB64 (r : BitVec 16) (d : Literal) : F32 :=
  let div := unpack64 (round64 d.num d.den)
  let quot := overDyadic r.toInt.natAbs div.1 div.2
  let q64 := unpack64 (round64 quot.1 quot.2)
  roundDyadic32 r.msb q64.1 q64.2

/-- `scale(r, d)` (R205). -/
def scale (ev : ScaleEval) (r : BitVec 16) (d : Literal) : F32 :=
  match ev with
  | .b32 => scaleB32 r d
  | .b64ThenB32 => scaleB64 r d

/-! ### The angle function -/

/-- The running maximum of free magnitudes, from 1 up to the pattern `n`. -/
def runningMax (raw : Nat → Nat) (n : Nat) : Nat :=
  match n with
  | 0 => 1
  | k + 1 => max (runningMax raw k) (raw (k + 1))

/-- The magnitude bits of `atanDeg` at magnitude bits `mag`: 0 at 0; else positive, finite, and rising with `mag`. -/
def atanMag (raw : Nat → Nat) (mag : Nat) : Nat :=
  if mag = 0 then 0 else min (runningMax raw mag) (inf32 - 1)

/-- `atanDeg` made from free magnitudes so that R203's properties (a) to (f) hold, and every function with these
properties is some choice of them (log entry 10). -/
def atanDegOf (raw : Nat → Nat) (x : F32) : F32 :=
  if isNaN x then qNaN else pack32 (signOf x) (atanMag raw (magOf x))

/-- `atanDeg` (`P_ATAN_DEG`, 43_estimator R203). -/
def atanDeg (x : F32) : F32 := atanDegOf Config.atanRaw x

/-- `A90 := atanDeg(+∞)` (43_estimator R203). -/
def a90 : F32 := atanDeg 0x7F800000

/-- `A45 := atanDeg(1.0)` (43_estimator R203). -/
def a45 : F32 := atanDeg 0x3F800000

end Sys2Proof.Machine
end

