-- ==== Sys2Proof/Machine/Estimator.lean ====
section
/-!
DEFINITION. SCALE_ACCEL, SCALE_GYRO and ESTIMATE (43_estimator).
-/

namespace Sys2Proof.Machine

/-! ### The scaler -/

/-- ACC_DIV (R204). -/
def accDiv (t : Tier) : Literal :=
  match t with
  | .t0 => { num := 16384, den := 1 }
  | .t1 => { num := 8192, den := 1 }
  | .t2 => { num := 4096, den := 1 }
  | .t3 => { num := 2048, den := 1 }

/-- GYR_DIV (R204): 131.0, 65.5, 32.8, 16.4. -/
def gyrDiv (t : Tier) : Literal :=
  match t with
  | .t0 => { num := 131, den := 1 }
  | .t1 => { num := 655, den := 10 }
  | .t2 => { num := 328, den := 10 }
  | .t3 => { num := 164, den := 10 }

/-- The tier with a number. -/
def tierOfNat (n : Nat) : Option Tier :=
  match n with
  | 0 => some .t0
  | 1 => some .t1
  | 2 => some .t2
  | 3 => some .t3
  | _ => none

/-- `P_TIER_OF` instance FIELD (R207). -/
def tierField (cfg : Byte) : Option Tier := tierOfNat (cfg.toNat / 8 % 4)

/-- `P_TIER_OF` instance EXACT (R207). -/
def tierExact (cfg : Byte) : Option Tier :=
  if cfg.toNat % 8 = 0 then tierOfNat (cfg.toNat / 8) else none

/-- `P_TIER_OF` instance LOW2 (R207). -/
def tierLow2 (cfg : Byte) : Option Tier := tierOfNat cfg.toNat

/-- The three lanes (R211): the same function on each axis. -/
def scaleAxes (ev : ScaleEval) (v : Axes (BitVec 16)) (d : Literal) : Axes F32 where
  x := scale ev v.x d
  y := scale ev v.y d
  z := scale ev v.z d

/-- The results of SCALE_ACCEL for configuration byte `cfg` (R211, R213). -/
def scaleAccelResults (tierOf : Byte → Option Tier) (ev : ScaleEval) (cfg : Byte) (r : Regs) : Regs :=
  match tierOf cfg with
  | some t =>
    { r with
      cfgA := cfg
      acc := scaleAxes ev r.accRaw (accDiv t)
      status := { r.status with tierInv := false } }
  | none => { r with cfgA := cfg, status := { r.status with tierInv := true } }

/-- The results of SCALE_GYRO for configuration byte `cfg` (R212, R213). -/
def scaleGyroResults (tierOf : Byte → Option Tier) (ev : ScaleEval) (cfg : Byte) (r : Regs) : Regs :=
  match tierOf cfg with
  | some t =>
    { r with
      cfgG := cfg
      gyr := scaleAxes ev r.gyrRaw (gyrDiv t)
      status := { r.status with tierInv := false } }
  | none => { r with cfgG := cfg, status := { r.status with tierInv := true } }

/-- The phases of a SCALE command: one fresh RDTX of the configuration register (R208), then COMPUTE and DONE. The datapath
has no state of its own (10_state R41): what COMPUTE computes is a function of registers that stand still until DONE, and is
written here where DONE stores it (log entry 5). -/
def scaleBody (cfgReg : Byte) (results : Byte → Regs → Regs) (s : State) : Result :=
  match s.seq.phase with
  | .startAddrW => rdtxWrite s.regs.imuSa cfgReg s
  | .startAddrR => rdtxRead s.regs.imuSa (goto .compute) s
  | .compute => .next (goto .done s)
  | .done => .next (finishCommand (results (rdtxByte s)) (rdtxTaken s))
  | _ => .next s

/-- SCALE_ACCEL (R211). -/
def execScaleAccel (s : State) : Result :=
  runCommand .scaleAccel (accept .scaleAccel .startAddrW)
    (scaleBody Config.sensorMap.accCfg (scaleAccelResults Config.tierOf Config.scaleEval)) s

/-- SCALE_GYRO (R212). -/
def execScaleGyro (s : State) : Result :=
  runCommand .scaleGyro (accept .scaleGyro .startAddrW)
    (scaleBody (gyroCfgReg gyroTierSource Config.sensorMap) (scaleGyroResults Config.tierOf Config.scaleEval)) s

/-! ### The angles and the yaw accumulator -/

/-- tiltX, or tiltY with the axes exchanged (R215): atan(a / sqrt(b² + c²)) in degrees. -/
def tiltAngle (atan : F32 → F32) (a b c : F32) : F32 := atan (fdiv a (fsqrt (fadd (fmul b b) (fmul c c))))

/-- T (R215): atan(sqrt(Ax² + Ay²) / Az) in degrees. -/
def yawTerm (atan : F32 → F32) (a : Axes F32) : F32 :=
  atan (fdiv (fsqrt (fadd (fmul a.x a.x) (fmul a.y a.y))) a.z)

/-- 4.0 (R216). -/
def four : F32 := 0x40800000

/-- −4.0 (R216). -/
def minusFour : F32 := 0xC0800000

/-- `yawgate(y0, T, Gz)` (R216). A NaN sum has a free pattern, number `n`; the dead band keeps the pattern of y0. -/
def yawGate (n : Nat) (y0 t gz : F32) : F32 :=
  if fgt gz four then freeIfNaN n (fadd y0 t)
  else if fgt minusFour gz then freeIfNaN n (fsub y0 t)
  else y0

/-- The results of ESTIMATE (R215) under an angle function; NaN results take the free patterns `n`, `n + 1`, `n + 2`. -/
def estimateResults (atan : F32 → F32) (n : Nat) (r : Regs) : Regs :=
  { r with
    tiltX := freeIfNaN n (tiltAngle atan r.acc.x r.acc.y r.acc.z)
    tiltY := freeIfNaN (n + 1) (tiltAngle atan r.acc.y r.acc.x r.acc.z)
    yaw := yawGate (n + 2) r.yaw (yawTerm atan r.acc) r.gyr.z }

/-- The phases of ESTIMATE (R215): COMPUTE and DONE, as in `scaleBody`. -/
def estimateBody (s : State) : Result :=
  match s.seq.phase with
  | .compute => .next (goto .done s)
  | .done => .next (finishCommand (estimateResults atanDeg s.draws) (s.bump 3))
  | _ => .next s

/-- ESTIMATE (R215), accepted before INIT too. -/
def execEstimate (s : State) : Result := runCommand .estimate (accept .estimate .compute) estimateBody s

end Sys2Proof.Machine
end

