-- ==== Sys2Proof/Machine/SensorIo.lean ====
section
/-!
DEFINITION. READ_ACCEL and READ_GYRO (42_sensor_io R182, R183): six read transactions in the order of R184, then the
three raw axes, all written in the DONE step (R187).
-/

namespace Sys2Proof.Machine

/-- After the `t`th read: `seq.tmp[t] <- b`, then the next read or DONE. -/
def gathered (s : State) : State :=
  let b := rdtxByte s
  let u := rdtxTaken s
  let q := { u.seq with tmp := u.seq.tmp.setIfInBounds u.seq.t.toNat b }
  if u.seq.t = 5 then goto .done (u.setSeq q) else goto .startAddrW (u.setSeq { q with t := q.t + 1 })

/-- The phases of READ_ACCEL and READ_GYRO over the sensor's data registers `regs`; `put` stores the axes. -/
def sampleBody (regs : Axes HiLo) (put : Axes (BitVec 16) → Regs → Regs) (s : State) : Result :=
  match s.seq.phase with
  | .startAddrW => rdtxWrite s.regs.imuSa (orderReg regs s.seq.t.toNat) s
  | .startAddrR => rdtxRead s.regs.imuSa gathered s
  | .done => .next (finishCommand (put (assembleTmp s.seq)) s)
  | _ => .next s

/-- READ_ACCEL (R182). -/
def execReadAccel (s : State) : Result :=
  runCommand .readAccel (accept .readAccel .startAddrW)
    (sampleBody Config.sensorMap.accData (fun v r => { r with accRaw := v })) s

/-- READ_GYRO (R183). -/
def execReadGyro (s : State) : Result :=
  runCommand .readGyro (accept .readGyro .startAddrW)
    (sampleBody Config.sensorMap.gyrData (fun v r => { r with gyrRaw := v })) s

end Sys2Proof.Machine
end

