-- ==== Sys2Proof/Machine/Dispatch.lean ====
section
/-!
DEFINITION. The dispatch: one arm per instruction. An instruction's meaning is what it does in one step: a host command's
acceptance, or its next sequencer step while it runs; a master command's issue and completion (log entries 3 and 4).
-/

namespace Sys2Proof.Machine

def exec (i : Instr) (s : State) : Host.Outcome State Fault Refusal :=
  match i with
  | .init => Sys2Proof.Machine.execInit s
  | .readReg => Sys2Proof.Machine.execReadReg s
  | .writeReg => Sys2Proof.Machine.execWriteReg s
  | .burstRead => Sys2Proof.Machine.execBurstRead s
  | .burstWrite => Sys2Proof.Machine.execBurstWrite s
  | .readAccel => Sys2Proof.Machine.execReadAccel s
  | .readGyro => Sys2Proof.Machine.execReadGyro s
  | .scaleAccel => Sys2Proof.Machine.execScaleAccel s
  | .scaleGyro => Sys2Proof.Machine.execScaleGyro s
  | .estimate => Sys2Proof.Machine.execEstimate s
  | .mcmdRun => Sys2Proof.Machine.execMcmdRun s
  | .mcmdStartRun => Sys2Proof.Machine.execMcmdStartRun s
  | .mcmdStop => Sys2Proof.Machine.execMcmdStop s
  | .mcmdRunStop => Sys2Proof.Machine.execMcmdRunStop s
  | .mcmdStartRunStop => Sys2Proof.Machine.execMcmdStartRunStop s
  | .mcmdRunAck => Sys2Proof.Machine.execMcmdRunAck s
  | .mcmdStartRunAck => Sys2Proof.Machine.execMcmdStartRunAck s

end Sys2Proof.Machine
end

