-- ==== Sys2Proof/Machine/Step.lean ====
section
/-!
DEFINITION. The machine's step, and the placing of one instruction where the step fetches its next one.
-/

namespace Sys2Proof.Machine

/-- One step: one move of one agent (00_scope R6, 20_memory R71), with `exec` as the meaning of what it fetches. -/
def step (s : State) : Host.Outcome State Fault Refusal := stepWith exec s

/-- The state with the object whose bits are `w` placed where the next step fetches it (log entries 19 and 20). -/
def State.withFetchWord (s : State) (nbits w : Nat) : State :=
  match encodedOfTable nbits w with
  | some e => placeEncoded e s
  | none => s

end Sys2Proof.Machine
end

