-- ==== Sys2Proof/Machine/HostProgram.lean ====
section
/-!
DEFINITION. The host program notation of 30_encoding: `CMD <mnemonic>` (R90) and the pseudo-instructions (R91), as lists
of host actions. `R <off> -> name` puts the value at the end of `values`, so a name is a position in that list
(log entry 18).
-/

namespace Sys2Proof.Machine

/-- `W off, v` (R90), an admitted 32-bit write. -/
def actW (off : Nat) (v : Word) : HostAction := .write off 4 v

/-- `R off` (R90), an admitted 32-bit read. -/
def actR (off : Nat) : HostAction := .read off 4

/-- `CMD <mnemonic>` (R90): `W CMD, zext_32(OP)`. -/
def actCmd (op : HostCmd) : HostAction := actW 0x00 (op.code.setWidth 32)

/-- The pseudo-instructions (R91). -/
inductive Pseudo where
  | init
  | rdreg (sa : BusAddr) (ra : Byte)
  | wrreg (sa : BusAddr) (ra v : Byte)
  | bread (sa : BusAddr) (ra n : Byte)
  | bwrite (sa : BusAddr) (ra n : Byte)
  | racc
  | rgyr
  | sacc
  | sgyr
  | est
  deriving DecidableEq, Repr

/-- The expansions (R91). The two remarks in brackets are the host's own further actions and no part of an expansion: the
writes of BUF0..BUF3 before `bwrite`, and the reads of them after `bread`, for which R91 names no values (DESIGN CHOICE, log
entry 18). -/
def Pseudo.expand (p : Pseudo) : List HostAction :=
  match p with
  | .init => [actCmd .init, .poll]
  | .rdreg sa ra =>
    [actW 0x08 (sa.setWidth 32), actW 0x0C (ra.setWidth 32), actCmd .readReg, .poll, actR 0x18]
  | .wrreg sa ra v =>
    [actW 0x08 (sa.setWidth 32), actW 0x0C (ra.setWidth 32), actW 0x10 (v.setWidth 32), actCmd .writeReg, .poll,
      actR 0x1C]
  | .bread sa ra n =>
    [actW 0x08 (sa.setWidth 32), actW 0x0C (ra.setWidth 32), actW 0x14 (n.setWidth 32), actCmd .burstRead, .poll,
      actR 0x1C]
  | .bwrite sa ra n =>
    [actW 0x08 (sa.setWidth 32), actW 0x0C (ra.setWidth 32), actW 0x14 (n.setWidth 32), actCmd .burstWrite, .poll,
      actR 0x1C]
  | .racc => [actCmd .readAccel, .poll]
  | .rgyr => [actCmd .readGyro, .poll]
  | .sacc => [actCmd .scaleAccel, .poll]
  | .sgyr => [actCmd .scaleGyro, .poll]
  | .est => [actCmd .estimate, .poll]

end Sys2Proof.Machine
end

