-- ==== Sys2Proof/Safety.lean ====
section
/-!
DEFINITION. What every state of a run satisfies: the invariant `State.Inv`, part by part, and the sets of values it names;
and the terms in which the statements speak: the conditions under which an instruction runs, and the next states of the
spec's rules, written out from the rules and not from the meanings.
-/

namespace Sys2Proof.Machine

/-- The phases that a command's rule names (41_engine_ops R145 to R160, 42_sensor_io R182, 43_estimator R211, R215). -/
def phaseOf (op : HostCmd) (p : Phase) : Bool :=
  match op, p with
  | .init, .compute => true
  | .init, .done => true
  | .estimate, .compute => true
  | .estimate, .done => true
  | .scaleAccel, .compute => true
  | .scaleGyro, .compute => true
  | .init, _ => false
  | .estimate, _ => false
  | _, .startAddrW => true
  | .scaleAccel, .startAddrR => true
  | .scaleGyro, .startAddrR => true
  | .readReg, .startAddrR => true
  | .readAccel, .startAddrR => true
  | .readGyro, .startAddrR => true
  | .burstRead, .startAddrR => true
  | .burstRead, .recvByte => true
  | .burstWrite, .sendByte => true
  | .writeReg, .sendByte => true
  | .writeReg, .stopAbort => true
  | .burstRead, .stopAbort => true
  | .burstWrite, .stopAbort => true
  | _, .done => true
  | _, _ => false

/-- The master command that a phase of the running command issues. -/
def phaseCode (op : HostCmd) (q : Seq) : Option (BitVec 4) :=
  match q.phase with
  | .startAddrW => some 0x3
  | .startAddrR => if op = .burstRead then some (rxcode q.i.toNat q.n.toNat) else some 0x7
  | .recvByte => some (rxcode q.i.toNat q.n.toNat)
  | .sendByte => if op = .writeReg then some 0x5 else some (txcode q.i.toNat q.n.toNat)
  | .stopAbort => some 0x4
  | .compute => none
  | .done => none
  | .idle => none

/-- Whether the master holds the bus when a phase's command is issued; `none` where both can be (the second phase of a
read transaction, 41_engine_ops R146). -/
def heldBefore (op : HostCmd) (p : Phase) : Option Bool :=
  match p with
  | .startAddrR => if op = .burstRead then some true else none
  | .recvByte => some true
  | .sendByte => some true
  | .stopAbort => some true
  | .startAddrW => some false
  | .compute => some false
  | .done => some false
  | .idle => some false

/-- The values that RESULT can hold (41_engine_ops R153). -/
def resultCode (b : Byte) : Bool := b == 0x00 || b == 0x06 || b == 0x0A || b == 0x12

/-- The error flags agree with each other (40_bus_master R114 (b) and (c)). -/
def errorFlagsAgree (m : Master) : Bool :=
  m.error == (m.adrack || m.datack || m.arblst) && !(m.adrack && m.datack) && !(m.adrack && m.arblst) &&
    !(m.datack && m.arblst)

/-- A burst's index and count (41_engine_ops R155, R160; 10_state R42): the count is at most `P_BUF_LEN`, and the byte in
work is one of the burst's. -/
def burstIndexOk (q : Seq) : Bool :=
  q.n.toNat ≤ bufLen &&
    match q.phase with
    | .startAddrW => q.i == 0 && 0 < q.n.toNat
    | .startAddrR => q.i == 0 && 0 < q.n.toNat
    | .recvByte => 0 < q.i.toNat && q.i.toNat < q.n.toNat
    | .sendByte => q.i.toNat < q.n.toNat
    | _ => true

/-- The reference peripheral's register file is in canonical form. -/
def envMemoryWf (env : BusEnv) : Bool :=
  match env with
  | .oracle _ => true
  | .reference p => p.mem.wf

/-- What holds in every state of a run. -/
structure State.Inv (s : State) : Prop where
  /-- STATUS.BUSY is set exactly while a command runs (10_state R23) -/
  busy_iff_op : s.regs.status.busy = s.seq.op.isSome
  /-- whenever no command runs, the sequencer is IDLE and the bus is idle (41_engine_ops R165) -/
  idle_bus : s.seq.op = none → s.seq.phase = .idle ∧ s.seq.issued = false ∧ s.m.busy = false ∧ s.m.held = false
  /-- a running command is in a phase of its own rule -/
  phase_of_op : ∀ op, s.seq.op = some op → phaseOf op s.seq.phase = true
  /-- the latched arguments and the argument registers agree for the whole command (10_state R40) -/
  latched_agree : s.seq.op ≠ none →
    s.seq.sa = s.regs.sa ∧ s.seq.ra = s.regs.ra ∧ s.seq.wd = s.regs.wdata ∧ s.seq.n = s.regs.count
  /-- INIT_DONE = 1 implies m.EN = 1 (60_exceptions R248) -/
  init_enables : s.regs.status.initDone = true → s.m.en = true
  /-- INIT reaches its DONE step with the master enabled (41_engine_ops R145) -/
  init_done_enabled : s.seq.op = some .init → s.seq.phase = .done → s.m.en = true
  /-- a bus command runs only after INIT (41_engine_ops R142) -/
  bus_after_init : ∀ op, s.seq.op = some op → op.usesBus = true → s.regs.status.initDone = true
  /-- the error flags agree (40_bus_master R114) -/
  error_flags : errorFlagsAgree s.m = true
  /-- a master command in work was issued by the current phase, and its error flags are cleared (40_bus_master R103) -/
  busy_issued : s.m.busy = true → s.seq.issued = true ∧ s.m.error = false
  /-- the issued command is the phase's -/
  issued_code : ∀ op, s.seq.op = some op → s.seq.issued = true → phaseCode op s.seq = some s.m.cmd
  /-- burst index and count -/
  burst_index : ∀ op, s.seq.op = some op → (op = .burstRead ∨ op = .burstWrite) → burstIndexOk s.seq = true
  /-- the bus is held or free as the phase needs it, up to the phase's completion -/
  held_before : ∀ op b, s.seq.op = some op → heldBefore op s.seq.phase = some b →
    (s.seq.issued = false ∨ s.m.busy = true) → s.m.held = b
  /-- after the phase's completion the bus is held unless the command had STOP or lost arbitration (40_bus_master R105,
  R114 (a)) -/
  held_after : s.seq.issued = true → s.m.busy = false → s.m.held = (!mcmdStopBit s.m.cmd && !s.m.arblst)
  /-- RESULT and the captured code are among the four values (41_engine_ops R153) -/
  result_codes : resultCode s.regs.result = true ∧ resultCode s.seq.err = true
  /-- `seq.t` counts from 0 to 5 (10_state R42) -/
  sample_index : s.seq.t.toNat ≤ 5
  /-- the peripheral's memory keeps its canonical form -/
  memory_wf : envMemoryWf s.env = true

/-! ### Terms of the statements: conditions -/

/-- The command `op` runs (10_state R23, R39). -/
def State.running (s : State) (op : HostCmd) : Prop := s.regs.status.busy = true ∧ s.seq.op = some op

/-- The running command's phase is about to issue its master command (41_engine_ops R140). -/
def State.mayIssue (s : State) (p : Phase) : Prop := s.seq.phase = p ∧ s.seq.issued = false ∧ s.m.en = true

/-- The running command's phase has its master command completed, and is about to be judged (41_engine_ops R141). -/
def State.mayJudge (s : State) (p : Phase) : Prop := s.seq.phase = p ∧ s.seq.issued = true ∧ s.m.busy = false

/-- The sequencer moves next, and the command `op` is in phase `p`. -/
def State.movesIn (s : State) (op : HostCmd) (p : Phase) : Prop :=
  nextAgent s = .sequencer ∧ s.seq.op = some op ∧ s.seq.phase = p

/-- The host moves next and writes `v` to the offset `off`, with an admitted access. -/
def State.hostWrites (s : State) (off : Nat) (v : Word) : Prop :=
  nextAgent s = .host ∧ ∃ rest, s.host = .write off 4 v :: rest

/-- The host moves next, writes one of the registers at `lo` to `hi`, and no command runs (20_memory R63). -/
def State.hostStores (s : State) (lo hi : Nat) : Prop :=
  s.regs.status.busy = false ∧ ∃ off v, s.hostWrites off v ∧ lo ≤ off ∧ off ≤ hi

/-- No command runs, INIT has completed, no fault is recorded, and the master is enabled, idle and does not hold the bus
(41_engine_ops R165). -/
def State.ready (s : State) : Prop :=
  s.fault = none ∧ s.regs.status.busy = false ∧ s.regs.status.initDone = true ∧ s.m.en = true ∧ s.m.busy = false ∧
    s.m.held = false

/-! ### Terms of the statements: the host window (10_state R21) -/

/-- The offsets of the RW registers. -/
def rwOffset (off : Nat) : Bool :=
  [0x08, 0x0C, 0x10, 0x14, 0x20, 0x30, 0x34, 0x38, 0x3C, 0x40, 0x44, 0x50, 0x54, 0x58, 0x5C, 0x60, 0x64, 0x80, 0x84, 0x88,
    0x8C].contains off

/-- What an RW register reads as after `v` was written to it (10_state R24 to R36): a 7-bit, an 8-bit or a sign-extended
16-bit field, or the whole value. -/
def keptBits (off : Nat) (v : Word) : Word :=
  if off = 0x08 ∨ off = 0x20 then v &&& 0x0000007F
  else if 0x0C ≤ off ∧ off ≤ 0x14 then v &&& 0x000000FF
  else if 0x30 ≤ off ∧ off ≤ 0x44 then BitVec.ofInt 32 (v.extractLsb' 0 16).toInt
  else v

/-- The state with STATUS.OVR set (10_state R23). -/
def State.overrun (s : State) : State := { s with regs := { s.regs with status := { s.regs.status with ovr := true } } }

/-- The state with STATUS.BADCMD set (30_encoding R84). -/
def State.rejecting (s : State) : State :=
  { s with regs := { s.regs with status := { s.regs.status with badCmd := true } } }

/-- The first phase of a command's rule (41_engine_ops R145 to R160, 43_estimator R215); a burst of no bytes has only its
DONE step (41_engine_ops R162). -/
def firstPhase (op : HostCmd) (count : Byte) : Phase :=
  if op = .init ∨ op = .estimate then .compute
  else if (op = .burstRead ∨ op = .burstWrite) ∧ count = 0 then .done
  else .startAddrW

/-- The state after acceptance (41_engine_ops R142). -/
def State.accepted (s : State) (op : HostCmd) : State :=
  { s with
    regs := { s.regs with status := { s.regs.status with ovr := false, badCmd := false, busy := true } }
    seq :=
      { op := some op, phase := firstPhase op s.regs.count, issued := false, i := 0, t := 0, tmp := s.seq.tmp, err := 0,
        rx := false, sa := s.regs.sa, ra := s.regs.ra, wd := s.regs.wdata, n := s.regs.count } }

/-! ### Terms of the statements: master commands (40_bus_master) -/

/-- The master with command `c` issued to it (R103). -/
def Master.working (m : Master) (c : BitVec 4) : Master :=
  { m with cmd := c, busy := true, error := false, adrack := false, datack := false, arblst := false }

/-- The master after arbitration loss (R113). -/
def Master.afterLoss (m : Master) : Master := { m with arblst := true, error := true, held := false }

/-- The master after its address byte has been sent (R105): the bus held, the direction latched. -/
def Master.addressed (m : Master) : Master := { m with held := true, dir := m.sa.getLsbD 0 }

/-- S, or Sr on a held bus (R105). -/
def startEvent (m : Master) : WireEvent := if m.held then .sr else .s

/-- The address byte's event (R101, R102). -/
def addrEvent (m : Master) (k : Ack) : WireEvent := .addr (m.sa.extractLsb' 1 7) (m.sa.getLsbD 0) k

/-- The master after its data byte, when arbitration is not lost (R105). -/
def Master.afterByte (m : Master) (a : BusAnswer) : Master :=
  if m.dir then { m with dr := a.rxByte }
  else if a.txAck = .nack then { m with datack := true, error := true }
  else m

/-- The data byte's event (R105): `k` is how the master answers a received byte. -/
def byteEvent (m : Master) (a : BusAnswer) (k : Ack) : WireEvent :=
  if m.dir then .rx a.rxByte k else .tx m.dr a.txAck

/-- The state after a master command that ended with master `m` and these wire events (R104). -/
def State.completed (s : State) (a : BusAnswer) (m : Master) (events : List WireEvent) : State :=
  { s with
    m := { m with busy := false, otherMaster := a.otherMaster }
    trace := s.trace ++ events
    env := s.env.after events
    draws := s.draws + 1 }

/-! ### Terms of the statements: phases (41_engine_ops) -/

/-- The state after a phase has issued `c` with the register settings in `m` (R140). -/
def State.phaseIssued (s : State) (m : Master) (c : BitVec 4) : State :=
  { s with m := m.working c, seq := { s.seq with issued := true } }

/-- The state at the start of phase `p`. -/
def State.atPhase (s : State) (p : Phase) : State := { s with seq := { s.seq with phase := p, issued := false } }

/-- The state after ABORT has captured its code: it goes on to the STOP if the bus is held, else to DONE (R152). -/
def State.aborting (s : State) : State :=
  { s with
    seq :=
      { s.seq with
        err := s.m.stat.setWidth 8 &&& 0x1E
        phase := if s.m.held then .stopAbort else .done
        issued := false } }

/-- The state after the DONE step with the results in `r` (R143). -/
def State.returned (s : State) (r : Regs) : State :=
  { s with
    regs := { r with status := { r.status with busy := false } }
    seq := { s.seq with op := none, phase := .idle, issued := false } }

/-- ORDER (42_sensor_io R182). -/
def sensorOrder (map : Axes HiLo) : List Byte := [map.x.lo, map.x.hi, map.y.lo, map.y.hi, map.z.lo, map.z.hi]

/-- The peripheral and register that the read transaction of a command addresses (41_engine_ops R147, 42_sensor_io R182,
R183, 43_estimator R209). -/
def readTarget (op : HostCmd) (s : State) : Option (BusAddr × Byte) :=
  match op with
  | .readReg => some (s.seq.sa, s.seq.ra)
  | .readAccel => (sensorOrder Config.sensorMap.accData)[s.seq.t.toNat]?.map fun r => (s.regs.imuSa, r)
  | .readGyro => (sensorOrder Config.sensorMap.gyrData)[s.seq.t.toNat]?.map fun r => (s.regs.imuSa, r)
  | .scaleAccel => some (s.regs.imuSa, Config.sensorMap.accCfg)
  | .scaleGyro => some (s.regs.imuSa, Config.sensorMap.gyrCfg)
  | _ => none

/-- The order of agents that carries out `n` phases: the sequencer issues, the master completes, the sequencer judges. -/
def phaseTurns (n : Nat) : List Agent := (List.replicate n [Agent.sequencer, .master, .sequencer]).flatten

/-- A value that is neither infinite nor a NaN (00_scope R10). -/
def isFinite32 (x : F32) : Bool := magOf x < inf32

/-- The exact value of a finite pattern (00_scope R10); none for an infinity or a NaN. -/
def ratValue (x : F32) : Option ℚ :=
  match unpack32 x with
  | .fin neg m e => some ((if neg then -1 else 1) * (m : ℚ) * (2 : ℚ) ^ e)
  | .inf _ => none
  | .nan => none

/-- R201's rounding of an exact value `v` to the pattern `r`: an infinity exactly from half a unit past the largest finite
value on, the sign of `v`, and otherwise no finite value nearer, with an even significand where another is as near. -/
def roundsTo32 (v : ℚ) (r : F32) : Prop :=
  isNaN r = false ∧ (isFinite32 r = false ↔ 2 ^ 128 - 2 ^ 103 ≤ |v|) ∧ (v ≠ 0 → (signOf r = true ↔ v < 0)) ∧
    ∀ q z c, ratValue r = some q → ratValue z = some c →
      |v - q| ≤ |v - c| ∧ (|v - q| = |v - c| → c ≠ q → r.getLsbD 0 = false)

/-- A value of the binary64 format, its largest exponent left out: no value in use comes near it (43_estimator R205). -/
def isBinary64 (v : ℚ) : Prop := ∃ n e : Int, v = (n : ℚ) * (2 : ℚ) ^ e ∧ |n| < 2 ^ 53 ∧ -1074 ≤ e

/-- The addresses at which a sample is latched (40_bus_master R123). -/
def sampleAddrs : List Nat :=
  (sensorOrder Config.sensorMap.accData ++ sensorOrder Config.sensorMap.gyrData).map BitVec.toNat

/-- The bytes of a sample, in the order of `sampleAddrs`. -/
def sampleBytes (v : Sample) : List Byte := sensorOrder v.acc ++ sensorOrder v.gyr

end Sys2Proof.Machine
end

