-- ==== Sys2Proof/Certificates/Slice0/Obligations.lean ====
section
/-!
DEFINITION. The statements for the provers: one `def Obligations.<Name> : Prop` for each entry of OBLIGATIONS.json. The
terms they are written in stand in Sys2Proof/Safety.lean. A conclusion `exec i s = .next t` with `t` written out is the
instruction's completion and its frame at once: every field that `t` does not name is as in `s`.
-/

open Sys2Proof Sys2Proof.Machine

/-! ### Encoding -/

/-- 30_encoding R83, R84 and R87: the decoder reads exactly what the encoder writes, over every word and every code. -/
def Obligations.DecodeEncodeAgree : Prop :=
  (∀ i : Instr, i.wf = true → decode (encode i) = .ok i) ∧
  ∀ (e : Encoded) (i : Instr), decode e = .ok i → encode i = e

/-- 30_encoding R83, R84 and R87: which words and codes are accepted, and under which name each other one is refused. -/
def Obligations.DecoderRefusesByName : Prop :=
  (∀ w : Word,
    ((∃ i, decode (.cmd w) = .ok i) ↔ wfCmdWord w = true) ∧
    (decode (.cmd w) = .error .rsvdNotZero ↔ wfRsvd w = false) ∧
    (decode (.cmd w) = .error .reservedOp ↔ (wfRsvd w = true ∧ wfOp w = false))) ∧
  ∀ c : BitVec 4,
    ((∃ i, decode (.mcmd c) = .ok i) ↔ wfMcmd c = true) ∧
    (decode (.mcmd c) = .error .reservedMcmd ↔ wfMcmd c = false)

/-- 30_encoding R83, R87: a few words written out from the tables. -/
def Obligations.SpecWordsDecode : Prop :=
  decode (.cmd 0x00000001) = .ok .init ∧
  decode (.cmd 0x00000003) = .ok .writeReg ∧
  decode (.cmd 0x0000000A) = .ok .estimate ∧
  decode (.cmd 0x0000000B) = .error .reservedOp ∧
  decode (.cmd 0x00000011) = .error .rsvdNotZero ∧
  decode (.mcmd 0b0111) = .ok .mcmdStartRunStop ∧
  decode (.mcmd 0b1011) = .ok .mcmdStartRunAck ∧
  decode (.mcmd 0b0110) = .error .reservedMcmd

/-- 30_encoding R88: m.SA[7:1] = sa7, m.SA[0] = rw, as `(sa7 << 1) | rw`; no other field of the state changes. -/
def Obligations.AddressByteAssembly : Prop :=
  ∀ (a : BusAddr) (rw : Bool) (s : State),
    (addrByte a rw).extractLsb' 1 7 = a ∧
    (addrByte a rw).getLsbD 0 = rw ∧
    addrByte a rw = a.setWidth 8 <<< 1 ||| (if rw then 1 else 0) ∧
    setAddr a rw s = { s with m := { s.m with sa := addrByte a rw } }

/-! ### The machine's step and the host window -/

/-- 30_encoding R80, 41_engine_ops R140, 40_bus_master R104: what each agent fetches is decoded once and run by `exec`. The
host's CMD word leaves its list of actions; choosing the agent uses up one entry of the order of agents, or one draw, counts the
wait of the command in work and enters the step into the history. -/
def Obligations.StepRunsDecodedInstruction : Prop :=
  ∀ s : State, s.fault = none →
    (∀ w i, s.hostWrites 0x00 w → s.regs.status.busy = false → decode (.cmd w) = .ok i →
      step s = exec i { scheduled s with host := s.host.tail }) ∧
    (∀ op, nextAgent s = .sequencer → s.running op → step s = exec op.instr (scheduled s)) ∧
    (∀ i, nextAgent s = .master → s.m.busy = true → decode (.mcmd s.m.cmd) = .ok i → step s = exec i (scheduled s)) ∧
    scheduled s =
      { s with
        sched := if preempted s then s.sched else s.sched.tail
        waited := if s.m.busy = true ∧ nextAgent s ≠ .master then s.waited + 1 else 0
        draws := s.draws + if s.sched = [] then 1 else 0
        past := s.past ++ [pastStep (nextAgent s) s] }

/-- 20_memory R62, R63, 30_encoding R90: the effect of every admitted write, by register class; that a read has none on the
machine; and POLL, which stays at the head of the host's list while STATUS bit 0 is 1. -/
def Obligations.HostAccessEffects : Prop :=
  ∀ (s : State) (off : Nat) (v : Word) (rest : List HostAction), s.fault = none → nextAgent s = .host →
    wfAccess off 4 = true →
    let u : State := { scheduled s with host := rest }
    (s.host = .write off 4 v :: rest →
      (s.regs.status.busy = true →
        step s = .next (if off = 0 ∨ rwOffset off = true then u.overrun else u)) ∧
      (s.regs.status.busy = false → off = 0 →
        step s = match decode (.cmd v) with
          | .ok i => exec i u
          | .error _ => .next u.rejecting) ∧
      (s.regs.status.busy = false → rwOffset off = true →
        ∃ r, writeRw s.regs off v = some r ∧ readReg r off = keptBits off v ∧ step s = .next { u with regs := r }) ∧
      (s.regs.status.busy = false → off ≠ 0 → rwOffset off = false → step s = .next u)) ∧
    (s.host = .read off 4 :: rest → step s = .next { u with values := s.values ++ [readReg s.regs off] }) ∧
    (s.host = .poll :: rest →
      ((readReg s.regs 0x04).getLsbD 0 = true → step s = .next (scheduled s)) ∧
      ((readReg s.regs 0x04).getLsbD 0 = false → step s = .next u))

/-- 20_memory R62: any access that is not 4 bytes wide at a multiple of 4 within the window faults. -/
def Obligations.UnadmittedAccessFaults : Prop :=
  ∀ (s : State) (off width : Nat) (v : Word) (rest : List HostAction), s.fault = none → nextAgent s = .host →
    ¬(width = 4 ∧ off % 4 = 0 ∧ off ≤ 0xFC) →
    (s.host = .write off width v :: rest ∨ s.host = .read off width :: rest) →
    step s = .fault (.hostAccess off width)

/-- 10_state R21 to R36: the register window. Which field every offset reads, and at which bits; which field a host write to
each RW offset sets, and to which bits of the value; that no other offset takes a write; and so that an RW register reads back
the field bits it keeps, and no other register changes. -/
def Obligations.RwRegistersReadBack : Prop :=
  (∀ r : Regs,
    ((readReg r 0x04).getLsbD 0 = r.status.busy ∧ (readReg r 0x04).getLsbD 1 = r.status.initDone ∧
      (readReg r 0x04).getLsbD 2 = r.status.ovr ∧ (readReg r 0x04).getLsbD 3 = r.status.badCmd ∧
      (readReg r 0x04).getLsbD 4 = r.status.tierInv ∧ (readReg r 0x04).extractLsb' 5 27 = 0) ∧
    (∀ off, off ∈ [0x00, 0x2C, 0x48, 0x4C, 0x68, 0x6C, 0x7C] ∨ (0x90 ≤ off ∧ off ≤ 0xFC) → readReg r off = 0) ∧
    ((readReg r 0x08).toNat = r.sa.toNat ∧ (readReg r 0x0C).toNat = r.ra.toNat ∧
      (readReg r 0x10).toNat = r.wdata.toNat ∧ (readReg r 0x14).toNat = r.count.toNat ∧
      (readReg r 0x18).toNat = r.rdata.toNat ∧ (readReg r 0x1C).toNat = r.result.toNat ∧
      (readReg r 0x20).toNat = r.imuSa.toNat ∧ (readReg r 0x24).toNat = r.cfgA.toNat ∧
      (readReg r 0x28).toNat = r.cfgG.toNat) ∧
    ((readReg r 0x30).toInt = r.accRaw.x.toInt ∧ (readReg r 0x34).toInt = r.accRaw.y.toInt ∧
      (readReg r 0x38).toInt = r.accRaw.z.toInt ∧ (readReg r 0x3C).toInt = r.gyrRaw.x.toInt ∧
      (readReg r 0x40).toInt = r.gyrRaw.y.toInt ∧ (readReg r 0x44).toInt = r.gyrRaw.z.toInt) ∧
    (readReg r 0x50 = r.acc.x ∧ readReg r 0x54 = r.acc.y ∧ readReg r 0x58 = r.acc.z ∧ readReg r 0x5C = r.gyr.x ∧
      readReg r 0x60 = r.gyr.y ∧ readReg r 0x64 = r.gyr.z ∧ readReg r 0x70 = r.tiltX ∧ readReg r 0x74 = r.tiltY ∧
      readReg r 0x78 = r.yaw) ∧
    ∀ k j, k < 4 → j < 4 → r.buf[4 * k + j]? = some ((readReg r (0x80 + 4 * k)).extractLsb' (8 * j) 8)) ∧
  (∀ (r : Regs) (v : Word),
    (∀ off, rwOffset off = false → writeRw r off v = none) ∧
    (writeRw r 0x08 v = some { r with sa := v.extractLsb' 0 7 } ∧
      writeRw r 0x0C v = some { r with ra := v.extractLsb' 0 8 } ∧
      writeRw r 0x10 v = some { r with wdata := v.extractLsb' 0 8 } ∧
      writeRw r 0x14 v = some { r with count := v.extractLsb' 0 8 } ∧
      writeRw r 0x20 v = some { r with imuSa := v.extractLsb' 0 7 }) ∧
    (writeRw r 0x30 v = some { r with accRaw := { r.accRaw with x := v.extractLsb' 0 16 } } ∧
      writeRw r 0x34 v = some { r with accRaw := { r.accRaw with y := v.extractLsb' 0 16 } } ∧
      writeRw r 0x38 v = some { r with accRaw := { r.accRaw with z := v.extractLsb' 0 16 } } ∧
      writeRw r 0x3C v = some { r with gyrRaw := { r.gyrRaw with x := v.extractLsb' 0 16 } } ∧
      writeRw r 0x40 v = some { r with gyrRaw := { r.gyrRaw with y := v.extractLsb' 0 16 } } ∧
      writeRw r 0x44 v = some { r with gyrRaw := { r.gyrRaw with z := v.extractLsb' 0 16 } }) ∧
    (writeRw r 0x50 v = some { r with acc := { r.acc with x := v } } ∧
      writeRw r 0x54 v = some { r with acc := { r.acc with y := v } } ∧
      writeRw r 0x58 v = some { r with acc := { r.acc with z := v } } ∧
      writeRw r 0x5C v = some { r with gyr := { r.gyr with x := v } } ∧
      writeRw r 0x60 v = some { r with gyr := { r.gyr with y := v } } ∧
      writeRw r 0x64 v = some { r with gyr := { r.gyr with z := v } }) ∧
    ∀ k, k < 4 →
      ∃ buf : Vector Byte 16, writeRw r (0x80 + 4 * k) v = some { r with buf := buf } ∧
        (∀ j, j < 4 → buf[4 * k + j]? = some (v.extractLsb' (8 * j) 8)) ∧
        ∀ i, i / 4 ≠ k → buf[i]? = r.buf[i]?) ∧
  ∀ (r : Regs) (off : Nat) (v : Word), rwOffset off = true →
    ∃ r', writeRw r off v = some r' ∧ readReg r' off = keptBits off v ∧
      (∀ other, wfAccess other 4 = true → other ≠ off → readReg r' other = readReg r other) ∧
      r'.status = r.status ∧ r'.yaw = r.yaw

/-- 30_encoding R84, with R142's accept: a CMD write made while BUSY = 0. -/
def Obligations.CmdWriteWhileIdle : Prop :=
  ∀ (w : Word) (s : State), s.regs.status.busy = false →
    (¬(w.extractLsb' 4 28 = 0) → memWrite exec 0x00 4 w s = .next s.rejecting) ∧
    (w.extractLsb' 0 4 ∈ [0x0#4, 0xB#4, 0xC#4, 0xD#4, 0xE#4, 0xF#4] → memWrite exec 0x00 4 w s = .next s.rejecting) ∧
    (w.extractLsb' 0 4 ∈ [0x4#4, 0x5#4] → 16 < s.regs.count.toNat → memWrite exec 0x00 4 w s = .next s.rejecting) ∧
    (w.extractLsb' 4 28 = 0 → w.extractLsb' 0 4 ∉ [0x0#4, 0xB#4, 0xC#4, 0xD#4, 0xE#4, 0xF#4] →
      ¬(w.extractLsb' 0 4 ∈ [0x4#4, 0x5#4] ∧ 16 < s.regs.count.toNat) →
      ∃ op : HostCmd, op.code = w.extractLsb' 0 4 ∧
        memWrite exec 0x00 4 w s =
          if op.code ∉ [0x1#4, 0xA#4] ∧ s.regs.status.initDone = false then .fault (.uninitUse op.code)
          else .next (s.accepted op))

/-- 41_engine_ops R142: acceptance, field by field, of each of the ten host commands. -/
def Obligations.AcceptanceOfCommands : Prop :=
  ∀ (op : HostCmd) (s : State), s.regs.status.busy = false →
    ¬((op = .burstRead ∨ op = .burstWrite) ∧ 16 < s.regs.count.toNat) →
    (2 ≤ op.code.toNat ∧ op.code.toNat ≤ 9 → s.regs.status.initDone = false →
      exec op.instr s = .fault (.uninitUse op.code)) ∧
    (¬(2 ≤ op.code.toNat ∧ op.code.toNat ≤ 9) ∨ s.regs.status.initDone = true →
      exec op.instr s = .next
        { s with
          regs := { s.regs with status := { s.regs.status with ovr := false, badCmd := false, busy := true } }
          seq :=
            { s.seq with
              op := some op, phase := firstPhase op s.regs.count, issued := false, i := 0, t := 0, err := 0, rx := false,
              sa := s.regs.sa, ra := s.regs.ra, wd := s.regs.wdata, n := s.regs.count } })

/-- 60_exceptions R248: a recorded fault stops every agent, the first one is kept, and reset does not clear it. -/
def Obligations.FaultIsFinal : Prop :=
  ∀ (s : State) (r q : Fault),
    (s.fault = some r → step s = .fault r ∧ s.record q = s) ∧
    (s.fault = none → s.record q = { s with fault := some q }) ∧
    (applyReset s).fault = s.fault

/-! ### Master commands -/

/-- 40_bus_master R103: the checks of an issue, in order, and its effect. -/
def Obligations.IssueChecks : Prop :=
  ∀ (c : BitVec 4) (s : State),
    (s.m.en = false → issue c s = .fault (.uninitUse (opInfo s))) ∧
    (s.m.en = true → c ∉ [0x1#4, 0x3#4, 0x4#4, 0x5#4, 0x7#4, 0x9#4, 0xB#4] → issue c s = .fault (.masterProtocol c)) ∧
    (s.m.en = true → c ∈ [0x1#4, 0x5#4, 0x9#4] → s.m.held = false → issue c s = .fault (.masterProtocol c)) ∧
    (s.m.en = true → c ∈ [0x1#4, 0x3#4, 0x4#4, 0x5#4, 0x7#4, 0x9#4, 0xB#4] →
      ¬(c ∈ [0x1#4, 0x5#4, 0x9#4] ∧ s.m.held = false) →
      issue c s = .next
        { s with
          m := { s.m with cmd := c, error := false, adrack := false, datack := false, arblst := false, busy := true } })

/-- 40_bus_master R104 and R105: while the master works on a command, its instruction is the completion, with the cases of
each MCMD's rule (R106 to R113); every other master instruction waits. ACK is answered by 0x9 and 0xB alone. -/
def Obligations.CompletionWhileWorking : Prop :=
  ∀ (i : Instr) (c : BitVec 4) (s : State), encode i = .mcmd c → s.m.busy = true →
    let m := s.m
    let a := s.env.answer s.draws s.history m c
    let k : Ack := if c = 0x9 ∨ c = 0xB then .ack else .nack
    let stop : List WireEvent := if c = 0x5 ∨ c = 0x7 then [.p] else []
    let freed (n : Master) : Master := { n with held := if c = 0x5 ∨ c = 0x7 then false else n.held }
    (s.m.cmd ≠ c → exec i s = .next s) ∧
    (s.m.cmd = c → c ∈ [0x1#4, 0x5#4, 0x9#4] →
      (a.lostBeforeData = true → exec i s = .next (s.completed a m.afterLoss [.lost])) ∧
      (a.lostBeforeData = false →
        exec i s = .next (s.completed a (freed (m.afterByte a)) ([byteEvent m a k] ++ stop)))) ∧
    (s.m.cmd = c → c ∈ [0x3#4, 0x7#4, 0xB#4] →
      (a.lostBeforeAddr = true → exec i s = .next (s.completed a m.afterLoss [startEvent m, .lost])) ∧
      (a.lostBeforeAddr = false → a.addrAck = .nack →
        exec i s = .next
          (s.completed a (freed { m.addressed with adrack := true, error := true })
            ([startEvent m, addrEvent m .nack] ++ stop))) ∧
      (a.lostBeforeAddr = false → a.addrAck = .ack → a.lostBeforeData = true →
        exec i s = .next (s.completed a m.addressed.afterLoss [startEvent m, addrEvent m .ack, .lost])) ∧
      (a.lostBeforeAddr = false → a.addrAck = .ack → a.lostBeforeData = false →
        exec i s = .next
          (s.completed a (freed (m.addressed.afterByte a))
            ([startEvent m, addrEvent m .ack, byteEvent m.addressed a k] ++ stop)))) ∧
    (s.m.cmd = c → c = 0x4 →
      (m.held = true → exec i s = .next (s.completed a { m with held := false } [.p])) ∧
      (m.held = false → exec i s = .next (s.completed a m [])))

/-- 40_bus_master R106 and R111: RUN and RUN+ACK. They differ only in how the master answers a received byte. -/
def Obligations.McmdRunCompletes : Prop :=
  ∀ (i : Instr) (c : BitVec 4) (k : Ack) (s : State), (i, c, k) ∈ [(.mcmdRun, 0x1, .nack), (.mcmdRunAck, 0x9, .ack)] →
    s.m.busy = false →
    let m := s.m.working c
    let a := s.env.answer s.draws s.history m c
    (s.m.en = false → exec i s = .fault (.uninitUse (opInfo s))) ∧
    (s.m.en = true → s.m.held = false → exec i s = .fault (.masterProtocol c)) ∧
    (s.m.en = true → s.m.held = true →
      (a.lostBeforeData = true → exec i s = .next (s.completed a m.afterLoss [.lost])) ∧
      (a.lostBeforeData = false → exec i s = .next (s.completed a (m.afterByte a) [byteEvent m a k])))

/-- 40_bus_master R107 and R112: START+RUN and START+RUN+ACK. They differ only in how the master answers a received byte. -/
def Obligations.McmdStartRunCompletes : Prop :=
  ∀ (i : Instr) (c : BitVec 4) (k : Ack) (s : State),
    (i, c, k) ∈ [(.mcmdStartRun, 0x3, .nack), (.mcmdStartRunAck, 0xB, .ack)] → s.m.busy = false →
    let m := s.m.working c
    let a := s.env.answer s.draws s.history m c
    (s.m.en = false → exec i s = .fault (.uninitUse (opInfo s))) ∧
    (s.m.en = true →
      (a.lostBeforeAddr = true → exec i s = .next (s.completed a m.afterLoss [startEvent m, .lost])) ∧
      (a.lostBeforeAddr = false → a.addrAck = .nack →
        exec i s = .next
          (s.completed a { m.addressed with adrack := true, error := true } [startEvent m, addrEvent m .nack])) ∧
      (a.lostBeforeAddr = false → a.addrAck = .ack → a.lostBeforeData = true →
        exec i s = .next (s.completed a m.addressed.afterLoss [startEvent m, addrEvent m .ack, .lost])) ∧
      (a.lostBeforeAddr = false → a.addrAck = .ack → a.lostBeforeData = false →
        exec i s = .next
          (s.completed a (m.addressed.afterByte a) [startEvent m, addrEvent m .ack, byteEvent m.addressed a k])))

/-- 40_bus_master R108: STOP; on a bus that is not held there is no wire event and no change but the cleared flags. -/
def Obligations.McmdStopCompletes : Prop :=
  ∀ s : State, s.m.busy = false →
    let m := s.m.working 0x4
    let a := s.env.answer s.draws s.history m 0x4
    (s.m.en = false → exec .mcmdStop s = .fault (.uninitUse (opInfo s))) ∧
    (s.m.en = true → s.m.held = true → exec .mcmdStop s = .next (s.completed a { m with held := false } [.p])) ∧
    (s.m.en = true → s.m.held = false → exec .mcmdStop s = .next (s.completed a m []))

/-- 40_bus_master R109: RUN+STOP. -/
def Obligations.McmdRunStopCompletes : Prop :=
  ∀ s : State, s.m.busy = false →
    let m := s.m.working 0x5
    let a := s.env.answer s.draws s.history m 0x5
    (s.m.en = false → exec .mcmdRunStop s = .fault (.uninitUse (opInfo s))) ∧
    (s.m.en = true → s.m.held = false → exec .mcmdRunStop s = .fault (.masterProtocol 0x5)) ∧
    (s.m.en = true → s.m.held = true →
      (a.lostBeforeData = true → exec .mcmdRunStop s = .next (s.completed a m.afterLoss [.lost])) ∧
      (a.lostBeforeData = false →
        exec .mcmdRunStop s = .next
          (s.completed a { m.afterByte a with held := false } [byteEvent m a .nack, .p])))

/-- 40_bus_master R110: START+RUN+STOP. -/
def Obligations.McmdStartRunStopCompletes : Prop :=
  ∀ s : State, s.m.busy = false →
    let m := s.m.working 0x7
    let a := s.env.answer s.draws s.history m 0x7
    (s.m.en = false → exec .mcmdStartRunStop s = .fault (.uninitUse (opInfo s))) ∧
    (s.m.en = true →
      (a.lostBeforeAddr = true → exec .mcmdStartRunStop s = .next (s.completed a m.afterLoss [startEvent m, .lost])) ∧
      (a.lostBeforeAddr = false → a.addrAck = .nack →
        exec .mcmdStartRunStop s = .next
          (s.completed a { m.addressed with adrack := true, error := true, held := false }
            [startEvent m, addrEvent m .nack, .p])) ∧
      (a.lostBeforeAddr = false → a.addrAck = .ack → a.lostBeforeData = true →
        exec .mcmdStartRunStop s = .next
          (s.completed a m.addressed.afterLoss [startEvent m, addrEvent m .ack, .lost])) ∧
      (a.lostBeforeAddr = false → a.addrAck = .ack → a.lostBeforeData = false →
        exec .mcmdStartRunStop s = .next
          (s.completed a { m.addressed.afterByte a with held := false }
            [startEvent m, addrEvent m .ack, byteEvent m.addressed a .nack, .p])))

/-- 40_bus_master R114 (b) and (c), R113: what every master command that runs leaves in the flags, and that after it the
bus is held only if the command had no STOP and did not lose arbitration. 10_state R37: the bits of `m.STAT`. -/
def Obligations.CompletedCommandFlags : Prop :=
  (∀ (i : Instr) (c : BitVec 4) (s : State), encode i = .mcmd c → s.m.busy = false → s.m.en = true →
    (wfNeedsHeld c = true → s.m.held = true) →
    ∃ t, exec i s = .next t ∧ t.m.busy = false ∧ errorFlagsAgree t.m = true ∧
      (t.m.held = true → mcmdStopBit c = false ∧ t.m.arblst = false) ∧
      (mcmdStopBit c = false → t.m.arblst = false → t.m.held = true)) ∧
  ∀ m : Master,
    m.stat.getLsbD 0 = m.busy ∧ m.stat.getLsbD 1 = m.error ∧ m.stat.getLsbD 2 = m.adrack ∧ m.stat.getLsbD 3 = m.datack ∧
    m.stat.getLsbD 4 = m.arblst ∧ (m.stat.getLsbD 5 = true ↔ m.busy = false ∧ m.held = false) ∧
    (m.stat.getLsbD 6 = true ↔ m.held = true ∨ m.otherMaster = true)

/-- 40_bus_master R122: the answers of the reference peripheral, and what each wire event does to it. A TX or RX event acts
only in a transaction that addresses it. That a NACKed byte leaves the pointer, and where a transaction ends, are the
model's readings (log entry 9). -/
def Obligations.ReferencePeripheralRules : Prop :=
  ∀ (p : RefPeripheral) (n : Nat) (h : History) (m : Master) (c : BitVec 4) (b : Byte) (rw : Bool) (k : Ack) (x : BusAddr),
    let a := BusEnv.answer (.reference p) n h m c
    a.lostBeforeAddr = false ∧ a.lostBeforeData = false ∧
    (a.addrAck = .ack ↔ m.sa.extractLsb' 1 7 = p.addr) ∧
    (mcmdStartBit c = true → (a.txAck = .nack ↔ p.nackAt = some 0)) ∧
    (mcmdStartBit c = false → p.addressed = .write → (a.txAck = .nack ↔ p.nackAt = some p.wc)) ∧
    (mcmdStartBit c = true ∨ p.addressed = .read → a.rxByte = p.mem.read p.ptr.toNat) ∧
    p.onEvent (.addr p.addr false .ack) = { p with addressed := .write, wc := 0 } ∧
    p.onEvent (.addr p.addr true .ack) = { p with addressed := .read } ∧
    p.onEvent (.addr x rw .nack) = { p with addressed := .no } ∧
    (x ≠ p.addr → p.onEvent (.addr x rw k) = { p with addressed := .no }) ∧
    (p.addressed = .write →
      (p.wc = 0 → p.onEvent (.tx b .ack) = { p with ptr := b, wc := 1 }) ∧
      (p.wc ≠ 0 → p.onEvent (.tx b .ack) =
        { p with
          mem := p.mem.write p.ptr.toNat b, ptr := BitVec.ofNat 8 ((p.ptr.toNat + 1) % 256), wc := p.wc + 1 }) ∧
      p.onEvent (.tx b .nack) = { p with wc := p.wc + 1 }) ∧
    (p.addressed ≠ .write → p.onEvent (.tx b k) = p) ∧
    (p.addressed = .read → p.onEvent (.rx b k) = { p with ptr := BitVec.ofNat 8 ((p.ptr.toNat + 1) % 256) }) ∧
    (p.addressed ≠ .read → p.onEvent (.rx b k) = p) ∧
    (∀ e ∈ [WireEvent.s, .sr, .p, .lost], p.onEvent e = { p with addressed := .no }) ∧
    ∀ events : List WireEvent,
      BusEnv.after (.reference p) events = .reference (events.foldl (fun q e => q.onEvent e) p)

/-- 40_bus_master R122: the register file of the reference peripheral is a memory: a read after a write to the same
address gives the byte written, every other address reads as before, and the canonical form is kept. -/
def Obligations.MemoryReadAfterWrite : Prop :=
  ∀ (mem : Memory) (a : Nat) (v : Byte), mem.wf = true →
    (mem.write a v).wf = true ∧ (mem.write a v).read a = v ∧ ∀ b, b ≠ a → (mem.write a v).read b = mem.read b

/-! ### Engine commands, phase by phase -/

/-- 41_engine_ops R145: INIT's COMPUTE phase and its DONE. -/
def Obligations.InitCompletes : Prop :=
  ∀ s : State, s.running .init →
    (s.seq.phase = .compute →
      exec .init s = .next
        (State.atPhase { s with m := { s.m with en := true, tpr := Config.tpr }, platform := some Config.platform } .done)) ∧
    (s.seq.phase = .done →
      exec .init s = .next (s.returned { s.regs with status := { s.regs.status with initDone := true } }))

/-- 41_engine_ops R146: the phases of the read transaction, in the five commands that use it. The write phase is judged by
nothing, the read phase by ERROR alone. -/
def Obligations.ReadTransactionPhases : Prop :=
  ∀ (op : HostCmd) (s : State) (a : BusAddr) (reg : Byte), s.running op → readTarget op s = some (a, reg) →
    (s.mayIssue .startAddrW →
      exec op.instr s = .next (s.phaseIssued { s.m with sa := addrByte a false, dr := reg } 0x3)) ∧
    (s.mayJudge .startAddrW → exec op.instr s = .next (s.atPhase .startAddrR)) ∧
    (s.mayIssue .startAddrR →
      exec op.instr s = .next (s.phaseIssued { s.m with sa := addrByte a true } 0x7)) ∧
    (s.mayJudge .startAddrR → op ≠ .readAccel → op ≠ .readGyro →
      exec op.instr s = .next
        (State.atPhase { s with seq := { s.seq with rx := !s.m.error } } (if op = .readReg then .done else .compute)))

/-- 41_engine_ops R147: the DONE step of READ_REG; without a received byte RDATA takes a free byte. -/
def Obligations.ReadRegCompletes : Prop :=
  ∀ s : State, s.running .readReg → s.seq.phase = .done →
    (s.seq.rx = true → exec .readReg s = .next (s.returned { s.regs with rdata := s.m.dr })) ∧
    (s.seq.rx = false →
      exec .readReg s = .next
        (State.returned { s with draws := s.draws + 1 } { s.regs with rdata := Config.freeByte s.draws }))

/-- 41_engine_ops R150: the phases of WRITE_REG and its DONE. -/
def Obligations.WriteRegPhases : Prop :=
  ∀ s : State, s.running .writeReg →
    (s.mayIssue .startAddrW →
      exec .writeReg s = .next (s.phaseIssued { s.m with sa := addrByte s.seq.sa false, dr := s.seq.ra } 0x3)) ∧
    (s.mayJudge .startAddrW → s.m.error = false → exec .writeReg s = .next (s.atPhase .sendByte)) ∧
    (s.mayIssue .sendByte → s.m.held = true →
      exec .writeReg s = .next (s.phaseIssued { s.m with dr := s.seq.wd } 0x5)) ∧
    (s.mayJudge .sendByte → s.m.error = false → exec .writeReg s = .next (s.atPhase .done)) ∧
    (s.seq.phase = .done → exec .writeReg s = .next (s.returned { s.regs with result := s.seq.err }))

/-- 41_engine_ops R152: ABORT in the three commands that have it, from every phase that can fail to the DONE step. -/
def Obligations.AbortReleasesBus : Prop :=
  ∀ (op : HostCmd) (p : Phase) (s : State), op ∈ [HostCmd.writeReg, .burstRead, .burstWrite] → s.running op →
    (p ∈ [Phase.startAddrW, .startAddrR, .recvByte, .sendByte] → phaseOf op p = true → s.mayJudge p →
      s.m.error = true → exec op.instr s = .next s.aborting) ∧
    (s.mayIssue .stopAbort → exec op.instr s = .next (s.phaseIssued s.m 0x4)) ∧
    (s.mayJudge .stopAbort → exec op.instr s = .next (s.atPhase .done)) ∧
    (s.seq.phase = .done → exec op.instr s = .next (s.returned { s.regs with result := s.seq.err }))

/-- 41_engine_ops R155, R157: the phases of BURST_READ and its DONE. -/
def Obligations.BurstReadPhases : Prop :=
  ∀ s : State, s.running .burstRead → s.seq.n.toNat ≤ 16 →
    (s.mayIssue .startAddrW →
      exec .burstRead s = .next (s.phaseIssued { s.m with sa := addrByte s.seq.sa false, dr := s.seq.ra } 0x3)) ∧
    (s.mayJudge .startAddrW → s.m.error = false → exec .burstRead s = .next (s.atPhase .startAddrR)) ∧
    (s.mayIssue .startAddrR → s.seq.i = 0 →
      exec .burstRead s = .next
        (s.phaseIssued { s.m with sa := addrByte s.seq.sa true } (if s.seq.n = 1 then 0x7 else 0xB))) ∧
    (s.mayIssue .recvByte → s.m.held = true → 0 < s.seq.i.toNat →
      exec .burstRead s = .next (s.phaseIssued s.m (if s.seq.i.toNat + 1 = s.seq.n.toNat then 0x5 else 0x9))) ∧
    ((s.mayJudge .startAddrR ∨ s.mayJudge .recvByte) → s.m.error = false → s.seq.i.toNat < s.seq.n.toNat →
      exec .burstRead s = .next
        (State.atPhase
          { s with
            regs := { s.regs with buf := s.regs.buf.setIfInBounds s.seq.i.toNat s.m.dr }
            seq := { s.seq with i := if s.seq.i.toNat + 1 = s.seq.n.toNat then s.seq.i else s.seq.i + 1 } }
          (if s.seq.i.toNat + 1 = s.seq.n.toNat then .done else .recvByte))) ∧
    (s.seq.phase = .done → exec .burstRead s = .next (s.returned { s.regs with result := s.seq.err }))

/-- 41_engine_ops R160: the phases of BURST_WRITE and its DONE. -/
def Obligations.BurstWritePhases : Prop :=
  ∀ s : State, s.running .burstWrite → s.seq.n.toNat ≤ 16 →
    (s.mayIssue .startAddrW →
      exec .burstWrite s = .next (s.phaseIssued { s.m with sa := addrByte s.seq.sa false, dr := s.seq.ra } 0x3)) ∧
    (s.mayJudge .startAddrW → s.m.error = false → exec .burstWrite s = .next (s.atPhase .sendByte)) ∧
    (∀ h : s.seq.i.toNat < 16, s.mayIssue .sendByte → s.m.held = true →
      exec .burstWrite s = .next
        (s.phaseIssued { s.m with dr := s.regs.buf[s.seq.i.toNat] }
          (if s.seq.i.toNat + 1 = s.seq.n.toNat then 0x5 else 0x1))) ∧
    (s.mayJudge .sendByte → s.m.error = false → s.seq.i.toNat < s.seq.n.toNat →
      exec .burstWrite s = .next
        (State.atPhase
          { s with seq := { s.seq with i := if s.seq.i.toNat + 1 = s.seq.n.toNat then s.seq.i else s.seq.i + 1 } }
          (if s.seq.i.toNat + 1 = s.seq.n.toNat then .done else .sendByte))) ∧
    (s.seq.phase = .done → exec .burstWrite s = .next (s.returned { s.regs with result := s.seq.err }))

/-- 41_engine_ops R156 and R161: the four cases of `rxcode`, that every received byte but the last is acknowledged and the
last one is NACKed and followed by STOP, and the two cases of `txcode`. -/
def Obligations.BurstCommandSelection : Prop :=
  ∀ i n : Nat, i < n →
    (n = 1 → i = 0 → rxcode i n = 0x7) ∧
    (2 ≤ n → i = 0 → rxcode i n = 0xB) ∧
    (3 ≤ n → 0 < i → i < n - 1 → rxcode i n = 0x9) ∧
    (2 ≤ n → i = n - 1 → rxcode i n = 0x5) ∧
    (mcmdAckBit (rxcode i n) = true ↔ i < n - 1) ∧
    (mcmdStopBit (rxcode i n) = true ↔ i = n - 1) ∧
    (i = n - 1 → txcode i n = 0x5) ∧
    (i ≠ n - 1 → txcode i n = 0x1)

/-- 41_engine_ops R162: a burst of no bytes is accepted and in its next step completes with RESULT = 0; no BUF byte, no
wire event and nothing of the master changes. -/
def Obligations.BurstOfNoBytes : Prop :=
  ∀ (op : HostCmd) (s : State), op = .burstRead ∨ op = .burstWrite → s.regs.status.busy = false →
    s.regs.status.initDone = true → s.regs.count = 0 →
    ∃ t u, exec op.instr s = .next t ∧ exec op.instr t = .next u ∧ u.regs.result = 0 ∧ u.regs.status.busy = false ∧
      u.regs.buf = s.regs.buf ∧ u.trace = s.trace ∧ u.m = s.m ∧ u.env = s.env ∧ u.seq.op = none

/-! ### Samples and scaling -/

/-- 42_sensor_io R181: the exact value of every pair of bytes, and the bits that hold it. -/
def Obligations.AssembledAxisValue : Prop :=
  ∀ hi lo : Byte,
    assemble hi lo = hi.setWidth 16 <<< 8 ||| lo.setWidth 16 ∧
    (assemble hi lo).toInt =
      if 256 * hi.toNat + lo.toNat < 32768 then (256 * hi.toNat + lo.toNat : Int)
      else (256 * hi.toNat + lo.toNat : Int) - 65536

/-- 42_sensor_io R182, R183, R185, R187: after each read its byte goes to `seq.tmp`, a free byte if none was received; the
three axes are written by the DONE step alone. -/
def Obligations.SamplesGatheredAndStored : Prop :=
  ∀ (op : HostCmd) (s : State), op = .readAccel ∨ op = .readGyro → s.running op →
    (s.mayJudge .startAddrR → s.seq.t.toNat ≤ 5 →
      exec op.instr s = .next
        (State.atPhase
          { s with
            seq :=
              { s.seq with
                rx := !s.m.error
                tmp := s.seq.tmp.setIfInBounds s.seq.t.toNat (if s.m.error then Config.freeByte s.draws else s.m.dr)
                t := if s.seq.t = 5 then 5 else s.seq.t + 1 }
            draws := s.draws + if s.m.error then 1 else 0 }
          (if s.seq.t = 5 then .done else .startAddrW))) ∧
    (s.seq.phase = .done →
      let v : Axes (BitVec 16) :=
        { x := s.seq.tmp[1] ++ s.seq.tmp[0], y := s.seq.tmp[3] ++ s.seq.tmp[2], z := s.seq.tmp[5] ++ s.seq.tmp[4] }
      exec op.instr s = .next
        (s.returned (if op = .readAccel then { s.regs with accRaw := v } else { s.regs with gyrRaw := v })))

/-- 43_estimator R211, R213: the COMPUTE phase of SCALE_ACCEL and its DONE, for a byte that maps to a tier and for one that
maps to none. -/
def Obligations.ScaleAccelCompletes : Prop :=
  ∀ s : State, s.running .scaleAccel →
    (s.seq.phase = .compute → exec .scaleAccel s = .next (s.atPhase .done)) ∧
    (s.seq.phase = .done →
      let cfg := if s.seq.rx then s.m.dr else Config.freeByte s.draws
      let u : State := { s with draws := s.draws + if s.seq.rx then 0 else 1 }
      exec .scaleAccel s = .next
        (u.returned
          (match Config.tierOf cfg with
            | some t =>
              { s.regs with
                cfgA := cfg
                acc :=
                  { x := scale Config.scaleEval s.regs.accRaw.x (accDiv t)
                    y := scale Config.scaleEval s.regs.accRaw.y (accDiv t)
                    z := scale Config.scaleEval s.regs.accRaw.z (accDiv t) }
                status := { s.regs.status with tierInv := false } }
            | none => { s.regs with cfgA := cfg, status := { s.regs.status with tierInv := true } })))

/-- 43_estimator R212, R213: the COMPUTE phase of SCALE_GYRO and its DONE. -/
def Obligations.ScaleGyroCompletes : Prop :=
  ∀ s : State, s.running .scaleGyro →
    (s.seq.phase = .compute → exec .scaleGyro s = .next (s.atPhase .done)) ∧
    (s.seq.phase = .done →
      let cfg := if s.seq.rx then s.m.dr else Config.freeByte s.draws
      let u : State := { s with draws := s.draws + if s.seq.rx then 0 else 1 }
      exec .scaleGyro s = .next
        (u.returned
          (match Config.tierOf cfg with
            | some t =>
              { s.regs with
                cfgG := cfg
                gyr :=
                  { x := scale Config.scaleEval s.regs.gyrRaw.x (gyrDiv t)
                    y := scale Config.scaleEval s.regs.gyrRaw.y (gyrDiv t)
                    z := scale Config.scaleEval s.regs.gyrRaw.z (gyrDiv t) }
                status := { s.regs.status with tierInv := false } }
            | none => { s.regs with cfgG := cfg, status := { s.regs.status with tierInv := true } })))

/-- 43_estimator R202: `i2f` is exact, and `i2f(0)` is +0.0. -/
def Obligations.IntegerConversionIsExact : Prop :=
  (∀ r : BitVec 16, ratValue (i2f r) = some (r.toInt : ℚ)) ∧ i2f 0 = 0x00000000

/-- 43_estimator R204, R205, R206. Under both values of `P_SCALE_EVAL` an accel result is r · 2^-(14-k), exactly; raw 0 gives
+0.0; no scaled value is -0.0; every scaled value is finite and below 2000 in magnitude. For the gyroscope: B32 is one
binary32 division by R204's pattern; B64_THEN_B32 rounds the quotient by the binary64 value of the literal to binary64 and
then to binary32 (32.8 is 0x4040666666666666 and 16.4 is 0x4030666666666666 there); at tiers 0 and 1 both agree. -/
def Obligations.ScalerFacts : Prop :=
  ∀ (ev : ScaleEval) (t : Tier) (r : BitVec 16),
    let k : Nat := match t with
      | .t0 => 0
      | .t1 => 1
      | .t2 => 2
      | .t3 => 3
    ratValue (scale ev r (accDiv t)) = some ((r.toInt : ℚ) / 2 ^ (14 - k)) ∧
    (∀ d, d = accDiv t ∨ d = gyrDiv t →
      scale ev 0 d = 0x00000000 ∧ scale ev r d ≠ 0x80000000 ∧ ∃ v, ratValue (scale ev r d) = some v ∧ |v| < 2000) ∧
    (let pattern : F32 := match t with
        | .t0 => 0x43030000
        | .t1 => 0x42830000
        | .t2 => 0x42033333
        | .t3 => 0x41833333
      scale .b32 r (gyrDiv t) = fdiv (i2f r) pattern) ∧
    (let divisor : ℚ := match t with
        | .t0 => 131
        | .t1 => 131 / 2
        | .t2 => 0x10666666666666 / 2 ^ 47
        | .t3 => 0x10666666666666 / 2 ^ 48
      ∃ q, isBinary64 q ∧ (∀ c, isBinary64 c → |r.toInt / divisor - q| ≤ |r.toInt / divisor - c|) ∧
        roundsTo32 q (scale .b64ThenB32 r (gyrDiv t))) ∧
    (t = .t0 ∨ t = .t1 → scale .b32 r (gyrDiv t) = scale .b64ThenB32 r (gyrDiv t))

/-- 43_estimator R201: on finite operands ⊕, ⊖, ⊗ and ⊘ round the exact result to nearest, ties to even, with overflow to an
infinity; the signs of zero results; √ rounds the root of a value that is not negative to nearest. Then the operands that are not
finite and no NaN, and the division of a value that is not 0 by a zero: which infinity or zero each operation gives. -/
def Obligations.ArithmeticRoundsToNearest : Prop :=
  (∀ (x y : F32) (a b : ℚ), ratValue x = some a → ratValue y = some b →
    roundsTo32 (a + b) (fadd x y) ∧ roundsTo32 (a - b) (fsub x y) ∧ roundsTo32 (a * b) (fmul x y) ∧
    (b ≠ 0 → roundsTo32 (a / b) (fdiv x y)) ∧
    (a + b = 0 → signOf (fadd x y) = (signOf x && signOf y)) ∧
    (a - b = 0 → signOf (fsub x y) = (signOf x && !signOf y)) ∧
    signOf (fmul x y) = (signOf x != signOf y) ∧
    (b ≠ 0 → signOf (fdiv x y) = (signOf x != signOf y))) ∧
  (∀ (x : F32) (a : ℚ), ratValue x = some a → 0 < a →
    ∃ r, ratValue (fsqrt x) = some r ∧ 0 < r ∧
      ∀ z c, ratValue z = some c → |√(a : ℝ) - (r : ℝ)| ≤ |√(a : ℝ) - (c : ℝ)|) ∧
  (∀ x : F32, magOf x = 0 → fsqrt x = x) ∧
  fsqrt 0x7F800000 = 0x7F800000 ∧
  (∀ x y : F32, magOf x = inf32 → isNaN y = false →
    (isFinite32 y = true ∨ signOf y = signOf x → fadd x y = x ∧ fadd y x = x) ∧
    (isFinite32 y = true ∨ signOf y ≠ signOf x → fsub x y = x ∧ fsub y x = fneg x) ∧
    (magOf y ≠ 0 →
      magOf (fmul x y) = inf32 ∧ signOf (fmul x y) = (signOf x != signOf y) ∧ fmul y x = fmul x y) ∧
    (isFinite32 y = true →
      magOf (fdiv x y) = inf32 ∧ signOf (fdiv x y) = (signOf x != signOf y) ∧
      magOf (fdiv y x) = 0 ∧ signOf (fdiv y x) = (signOf x != signOf y))) ∧
  (∀ x y : F32, isFinite32 x = true → magOf x ≠ 0 → magOf y = 0 →
    magOf (fdiv x y) = inf32 ∧ signOf (fdiv x y) = (signOf x != signOf y))

/-! ### The estimator -/

/-- 43_estimator R201: invalid operations give a NaN, and a NaN operand does; overflow gives an infinity; a result that is
not a NaN keeps its pattern, and a NaN result is some NaN. -/
def Obligations.InvalidOperationsGiveNaN : Prop :=
  ∀ x y : F32,
    (isNaN x = true ∨ isNaN y = true →
      isNaN (fadd x y) = true ∧ isNaN (fsub x y) = true ∧ isNaN (fmul x y) = true ∧ isNaN (fdiv x y) = true) ∧
    (isNaN x = true → isNaN (fsqrt x) = true) ∧
    (magOf x = inf32 → magOf y = inf32 → isNaN (fdiv x y) = true ∧
      (signOf x ≠ signOf y → isNaN (fadd x y) = true) ∧ (signOf x = signOf y → isNaN (fsub x y) = true)) ∧
    (magOf x = inf32 → magOf y = 0 → isNaN (fmul x y) = true ∧ isNaN (fmul y x) = true) ∧
    (magOf x = 0 → magOf y = 0 → isNaN (fdiv x y) = true) ∧
    (signOf x = true → magOf x ≠ 0 → isNaN (fsqrt x) = true) ∧
    fmul 0x7F7FFFFF 0x7F7FFFFF = 0x7F800000 ∧
    (∀ n, isNaN (freeIfNaN n x) = isNaN x ∧ (isNaN x = false → freeIfNaN n x = x))

/-- 43_estimator R203: the six properties of `atanDeg`. -/
def Obligations.AngleFunctionProperties : Prop :=
  (atanDeg 0x00000000 = 0x00000000 ∧ atanDeg 0x80000000 = 0x80000000) ∧
  (∀ x, isNaN x = true → isNaN (atanDeg x) = true) ∧
  (∀ x, isNaN x = false → atanDeg (fneg x) = fneg (atanDeg x)) ∧
  (∀ x y, isNaN x = false → isNaN y = false → orderKey x ≤ orderKey y → orderKey (atanDeg x) ≤ orderKey (atanDeg y)) ∧
  (isFinite32 (atanDeg 0x7F800000) = true ∧
    ∀ x, isNaN x = false → magOf (atanDeg x) ≤ magOf (atanDeg 0x7F800000)) ∧
  (∀ x, fgt x 0 = true → fgt (atanDeg x) 0 = true)

/-- 43_estimator R215: the COMPUTE phase of ESTIMATE and its DONE. A NaN result is a free NaN; every other result is the
value the formulas give. -/
def Obligations.EstimateCompletes : Prop :=
  ∀ s : State, s.running .estimate →
    (s.seq.phase = .compute → exec .estimate s = .next (s.atPhase .done)) ∧
    (s.seq.phase = .done →
      let ax := s.regs.acc.x
      let ay := s.regs.acc.y
      let az := s.regs.acc.z
      let tx := atanDeg (fdiv ax (fsqrt (fadd (fmul ay ay) (fmul az az))))
      let ty := atanDeg (fdiv ay (fsqrt (fadd (fmul ax ax) (fmul az az))))
      let term := atanDeg (fdiv (fsqrt (fadd (fmul ax ax) (fmul ay ay))) az)
      ∃ x y : F32,
        exec .estimate s = .next
          (State.returned { s with draws := s.draws + 3 }
            { s.regs with tiltX := x, tiltY := y, yaw := yawGate (s.draws + 2) s.regs.yaw term s.regs.gyr.z }) ∧
        (isNaN tx = false → x = tx) ∧ (isNaN tx = true → isNaN x = true) ∧
        (isNaN ty = false → y = ty) ∧ (isNaN ty = true → isNaN y = true))

/-- 43_estimator R216: the yaw gate, with its boundaries. 4.0 is 0x40800000 and -4.0 is 0xC0800000. -/
def Obligations.YawGateRule : Prop :=
  ∀ (n : Nat) (y0 t gz : F32),
    (fgt gz 0x40800000 = true →
      isNaN (yawGate n y0 t gz) = isNaN (fadd y0 t) ∧
        (isNaN (fadd y0 t) = false → yawGate n y0 t gz = fadd y0 t)) ∧
    (fgt 0xC0800000 gz = true →
      isNaN (yawGate n y0 t gz) = isNaN (fsub y0 t) ∧
        (isNaN (fsub y0 t) = false → yawGate n y0 t gz = fsub y0 t)) ∧
    (fgt gz 0x40800000 = false → fgt 0xC0800000 gz = false → yawGate n y0 t gz = y0) ∧
    yawGate n y0 t 0x40800000 = y0 ∧ yawGate n y0 t 0xC0800000 = y0 ∧
    (isNaN gz = true → yawGate n y0 t gz = y0)

/-- 43_estimator R217: Az = +0.0, Az = -0.0, Ax = Ay = Az = 0, Ay = Az = 0, Az < 0, and Az < 0 with Ax = Ay = 0. The premises
that a root is positive or a quotient not 0, which the rule's words leave out, are there because the square of a tiny
component, and a tiny quotient, round to 0 (log entry 31). -/
def Obligations.NonFiniteCasesPropagate : Prop :=
  ∀ ax ay az y0 : F32,
    let root := fsqrt (fadd (fmul ax ax) (fmul ay ay))
    let t := yawTerm atanDeg { x := ax, y := ay, z := az }
    (fgt root 0 = true → yawTerm atanDeg { x := ax, y := ay, z := 0x00000000 } = a90) ∧
    (fgt root 0 = true → yawTerm atanDeg { x := ax, y := ay, z := 0x80000000 } = fneg a90) ∧
    (magOf ax = 0 → magOf ay = 0 → magOf az = 0 →
      isNaN (tiltAngle atanDeg ax ay az) = true ∧ isNaN (tiltAngle atanDeg ay ax az) = true ∧ isNaN t = true) ∧
    (magOf ay = 0 → magOf az = 0 → magOf ax ≠ 0 → isNaN ax = false →
      tiltAngle atanDeg ax ay az = (if signOf ax then fneg a90 else a90) ∧
      (fgt (fsqrt (fadd (fmul ax ax) (fmul az az))) 0 = true → tiltAngle atanDeg ay ax az = ay)) ∧
    (fgt 0 az = true → fgt root 0 = true → isNaN (fdiv root az) = false →
      signOf t = true ∧ (magOf (fdiv root az) ≠ 0 → fgt 0 t = true) ∧
      (isFinite32 y0 = true → orderKey (fadd y0 t) ≤ orderKey y0)) ∧
    (magOf ax = 0 → magOf ay = 0 → fgt 0 az = true →
      t = 0x80000000 ∧ (isNaN y0 = false → fadd y0 t = y0))

/-- 70_reset R287: a YAW that is a NaN or an infinity stays non-finite in every step but a reset. -/
def Obligations.PoisonedYawStaysNonFinite : Prop :=
  ∀ s t : State, step s = .next t → isFinite32 s.regs.yaw = false → nextAgent s ≠ .reset →
    isFinite32 t.regs.yaw = false

/-- 10_state R35, 43_estimator R218: only ESTIMATE and reset change YAW. -/
def Obligations.YawChangesOnlyByEstimate : Prop :=
  ∀ s t : State, step s = .next t → t.regs.yaw ≠ s.regs.yaw →
    (nextAgent s = .reset ∧ t.regs.yaw = 0) ∨ s.movesIn .estimate .done

/-! ### Who writes what -/

/-- 10_state R43: every writer of every STATUS flag. -/
def Obligations.StatusFlagWriters : Prop :=
  ∀ s t : State, step s = .next t →
    (s.regs.status.busy = false → t.regs.status.busy = true →
      ∃ op v, s.hostWrites 0x00 v ∧ decode (.cmd v) = .ok op.instr ∧ t.seq.op = some op) ∧
    (s.regs.status.busy = true → t.regs.status.busy = false →
      nextAgent s = .reset ∨ (nextAgent s = .sequencer ∧ t.seq.op = none ∧ t.seq.phase = .idle)) ∧
    (s.regs.status.initDone = false → t.regs.status.initDone = true → s.movesIn .init .done) ∧
    (s.regs.status.initDone = true → t.regs.status.initDone = false → nextAgent s = .reset) ∧
    (s.regs.status.ovr = false → t.regs.status.ovr = true →
      s.regs.status.busy = true ∧ ∃ off v, s.hostWrites off v ∧ (off = 0 ∨ rwOffset off = true)) ∧
    (s.regs.status.badCmd = false → t.regs.status.badCmd = true →
      s.regs.status.busy = false ∧ t.regs.status.busy = false ∧ ∃ v, s.hostWrites 0x00 v) ∧
    ((s.regs.status.ovr = true ∧ t.regs.status.ovr = false) ∨
        (s.regs.status.badCmd = true ∧ t.regs.status.badCmd = false) →
      nextAgent s = .reset ∨
        (nextAgent s = .host ∧ s.regs.status.busy = false ∧ t.regs.status.busy = true)) ∧
    (t.regs.status.tierInv ≠ s.regs.status.tierInv →
      nextAgent s = .reset ∨ s.movesIn .scaleAccel .done ∨ s.movesIn .scaleGyro .done)

/-- 10_state R28 to R36: every writer of every result, sample and buffer register. -/
def Obligations.ResultRegisterWriters : Prop :=
  ∀ s t : State, step s = .next t → nextAgent s ≠ .reset →
    (t.regs.rdata ≠ s.regs.rdata → s.movesIn .readReg .done) ∧
    (t.regs.result ≠ s.regs.result →
      s.movesIn .writeReg .done ∨ s.movesIn .burstRead .done ∨ s.movesIn .burstWrite .done) ∧
    (t.regs.cfgA ≠ s.regs.cfgA → s.movesIn .scaleAccel .done) ∧
    (t.regs.cfgG ≠ s.regs.cfgG → s.movesIn .scaleGyro .done) ∧
    (t.regs.accRaw ≠ s.regs.accRaw → s.movesIn .readAccel .done ∨ s.hostStores 0x30 0x38) ∧
    (t.regs.gyrRaw ≠ s.regs.gyrRaw → s.movesIn .readGyro .done ∨ s.hostStores 0x3C 0x44) ∧
    (t.regs.acc ≠ s.regs.acc → s.movesIn .scaleAccel .done ∨ s.hostStores 0x50 0x58) ∧
    (t.regs.gyr ≠ s.regs.gyr → s.movesIn .scaleGyro .done ∨ s.hostStores 0x5C 0x64) ∧
    (t.regs.tiltX ≠ s.regs.tiltX ∨ t.regs.tiltY ≠ s.regs.tiltY → s.movesIn .estimate .done) ∧
    (t.regs.buf ≠ s.regs.buf →
      (s.movesIn .burstRead .startAddrR ∨ s.movesIn .burstRead .recvByte) ∧ s.m.error = false ∨
        s.hostStores 0x80 0x8C)

/-- 10_state R24 to R27, R30: the argument registers change only by a host write while no command runs, or by reset; so
the engine never changes RA. -/
def Obligations.ArgumentRegisterWriters : Prop :=
  ∀ s t : State, step s = .next t → nextAgent s ≠ .reset →
    (t.regs.sa ≠ s.regs.sa → s.hostStores 0x08 0x08) ∧
    (t.regs.ra ≠ s.regs.ra → s.hostStores 0x0C 0x0C) ∧
    (t.regs.wdata ≠ s.regs.wdata → s.hostStores 0x10 0x10) ∧
    (t.regs.count ≠ s.regs.count → s.hostStores 0x14 0x14) ∧
    (t.regs.imuSa ≠ s.regs.imuSa → s.hostStores 0x20 0x20)

/-- 20_memory R72, 70_reset R270, 40_bus_master R120: the history only grows. The wire trace grows only by the master's step;
the list of past steps by one entry in every step, a reset among them. -/
def Obligations.TraceGrowsByMasterAlone : Prop :=
  ∀ s t : State, step s = .next t →
    t.past = s.past ++ [pastStep (nextAgent s) s] ∧
    ∃ events, t.trace = s.trace ++ events ∧ (events ≠ [] → nextAgent s = .master ∧ s.m.busy = true)

/-- 40_bus_master R104, 41_engine_ops R141, 70_reset R280: while the master has not completed its command, the sequencer
has no effect, and no step of the host ends the running command: BUSY stays 1. 40_bus_master R122: on the reference
peripheral every command completes (BUS_LIVE). Whatever the order of agents, the step of the master, or of a reset, comes after
at most as many other steps as the wait that the wire trace has, plus one (log entry 33), unless a host access faults before;
then no master command is in work any more. -/
def Obligations.WedgedBusKeepsBusy : Prop :=
  (∀ s t : State, s.Inv → s.m.busy = true → step s = .next t → nextAgent s ≠ .master → nextAgent s ≠ .reset →
    s.regs.status.busy = true ∧ t.regs.status.busy = true ∧ t.m = s.m ∧ t.seq = s.seq ∧ t.trace = s.trace ∧
      (nextAgent s = .sequencer → t = scheduled s)) ∧
  ∀ (s : State) (p : RefPeripheral), s.Inv → s.fault = none → s.env = .reference p → s.m.busy = true →
    ∃ n, n ≤ Config.freeWait s.trace + 1 ∧
      ((∃ u t : State, Host.Core.run Sys2Proof.core n s = .next u ∧ u.m = s.m ∧ u.trace = s.trace ∧
          (nextAgent u = .master ∨ nextAgent u = .reset) ∧ step u = .next t ∧ t.m.busy = false) ∨
        ∃ r, Host.Core.run Sys2Proof.core n s = .fault r)

/-! ### Reset -/

/-- 70_reset R270: a reset acts at any step at which it is chosen, whatever the master still has to do; and the reset step,
register by register: no wire event, and the fault field, the trace and the environment stay. -/
def Obligations.ResetStep : Prop :=
  (∀ s : State, nextAgent s = .reset ↔ chosenAgent s = .reset) ∧
  ∀ s : State, s.fault = none → nextAgent s = .reset →
    ∃ r : Regs,
      (∀ off, wfAccess off 4 = true → readReg r off = if off = 0x20 then Config.imuSaReset.setWidth 32 else 0) ∧
      step s = .next
        { scheduled s with
          regs := r
          m :=
            { busy := false, error := false, adrack := false, datack := false, arblst := false, otherMaster := false,
              en := false, tpr := 0, sa := 0, dr := 0, dir := false, held := false, cmd := 0 }
          seq :=
            { op := none, phase := .idle, issued := false, i := 0, t := 0, tmp := Vector.replicate 6 0, err := 0,
              rx := false, sa := 0, ra := 0, wd := 0, n := 0 } }

/-- 70_reset R271: the state after reset, as the host and the master's status show it. -/
def Obligations.ResetStateSummary : Prop :=
  (∀ off, wfAccess off 4 = true →
    readReg State.reset.regs off = if off = 0x20 then Config.imuSaReset.setWidth 32 else 0) ∧
  State.reset.m.stat = 0x20 ∧ State.reset.m.en = false ∧ State.reset.m.held = false ∧
  State.reset.seq.phase = .idle ∧ State.reset.seq.op = none ∧ (∀ k, bufByte State.reset.regs k = 0)

/-- 70_reset R276: ESTIMATE right after reset leaves NaN in both tilts and +0.0 in YAW. -/
def Obligations.EstimateOnResetValues : Prop :=
  ∃ t u v : State,
    exec .estimate State.reset = .next t ∧ exec .estimate t = .next u ∧ exec .estimate u = .next v ∧
    isNaN v.regs.tiltX = true ∧ isNaN v.regs.tiltY = true ∧ v.regs.yaw = 0x00000000 ∧ v.regs.status.busy = false

/-! ### Invariants of the whole machine -/

/-- The state after reset meets the invariant. -/
def Obligations.ResetMeetsTheInvariant : Prop := State.reset.Inv

/-- Every step keeps the invariant: with it 41_engine_ops R153 and R165, 40_bus_master R114, 60_exceptions R248 (INIT_DONE
implies m.EN), 10_state R40 and R42 hold in every state of every run. -/
def Obligations.StepKeepsTheInvariant : Prop :=
  ∀ s t : State, s.Inv → step s = .next t → t.Inv

/-- 30_encoding R87, 60_exceptions R248: from a state that meets the invariant, only a host access can fault, and only in
the two ways the rules name: MASTER_PROTOCOL and an issue with m.EN = 0 are unreachable. -/
def Obligations.OnlyHostAccessesFault : Prop :=
  ∀ s : State, s.Inv → s.fault = none →
    (nextAgent s ≠ .host → ∃ t, step s = .next t) ∧
    (∀ r, step s = .fault r →
      (∃ off width, wfAccess off width = false ∧ r = .hostAccess off width) ∨
        ∃ op : HostCmd, op.usesBus = true ∧ s.regs.status.initDone = false ∧ r = .uninitUse op.code)

/-! ### Whole commands -/

/-- 41_engine_ops R150, R152, R153: a whole WRITE_REG for every answer of the bus: the wire trace, RESULT, and the bus idle
at the end. -/
def Obligations.WriteRegRunsToCompletion : Prop :=
  ∀ (s : State) (a b : BusAnswer) (script : List BusAnswer) (rest : List HostAction) (agents : List Agent),
    s.ready → s.env = .oracle (a :: b :: script) → s.host = .write 0x00 4 0x00000003 :: rest →
    s.sched = [Agent.host] ++ phaseTurns 2 ++ [.sequencer] ++ agents →
    ∃ t : State, Host.Core.run Sys2Proof.core 8 s = .next t ∧ t.ready ∧ t.seq.op = none ∧ t.host = rest ∧
      t.sched = agents ∧
      (t.regs.result, t.trace) =
        if a.lostBeforeAddr then (0x12, s.trace ++ [.s, .lost])
        else if a.addrAck = .nack then (0x06, s.trace ++ [.s, .addr s.regs.sa false .nack, .p])
        else if a.lostBeforeData then (0x12, s.trace ++ [.s, .addr s.regs.sa false .ack, .lost])
        else if a.txAck = .nack then
          (0x0A, s.trace ++ [.s, .addr s.regs.sa false .ack, .tx s.regs.ra .nack, .p])
        else if b.lostBeforeData then
          (0x12, s.trace ++ [.s, .addr s.regs.sa false .ack, .tx s.regs.ra .ack, .lost])
        else
          (if b.txAck = .nack then 0x0A else 0x00,
            s.trace ++ [.s, .addr s.regs.sa false .ack, .tx s.regs.ra .ack, .tx s.regs.wdata b.txAck, .p])

/-- 41_engine_ops R146, R147: a whole READ_REG for every answer of the bus. RDATA is constrained only where a byte was
received. -/
def Obligations.ReadRegRunsToCompletion : Prop :=
  ∀ (s : State) (a b : BusAnswer) (script : List BusAnswer) (rest : List HostAction) (agents : List Agent),
    s.ready → s.env = .oracle (a :: b :: script) → s.host = .write 0x00 4 0x00000002 :: rest →
    s.sched = [Agent.host] ++ phaseTurns 2 ++ [.sequencer] ++ agents →
    ∃ t : State, Host.Core.run Sys2Proof.core 8 s = .next t ∧ t.ready ∧ t.seq.op = none ∧
      t.regs.result = s.regs.result ∧ t.regs.ra = s.regs.ra ∧
      (b.lostBeforeAddr = false → b.addrAck = .ack → b.lostBeforeData = false → t.regs.rdata = b.rxByte) ∧
      t.trace = s.trace ++
        (if a.lostBeforeAddr then [.s, .lost, .s]
          else if a.addrAck = .nack then [.s, .addr s.regs.sa false .nack, .sr]
          else if a.lostBeforeData then [.s, .addr s.regs.sa false .ack, .lost, .s]
          else [.s, .addr s.regs.sa false .ack, .tx s.regs.ra a.txAck, .sr]) ++
        (if b.lostBeforeAddr then [.lost]
          else if b.addrAck = .nack then [.addr s.regs.sa true .nack, .p]
          else if b.lostBeforeData then [.addr s.regs.sa true .ack, .lost]
          else [.addr s.regs.sa true .ack, .rx b.rxByte .nack, .p])

/-- 41_engine_ops R166: on the reference peripheral, WRITE_REG followed by READ_REG of the same register returns the byte
written, for every register and byte. -/
def Obligations.LoopbackReturnsTheByte : Prop :=
  ∀ (s : State) (p : RefPeripheral) (rest : List HostAction) (agents : List Agent),
    s.ready → s.env = .reference p → p.addr = s.regs.sa → p.nackAt = none → p.relatch = false → p.mem.wf = true →
    s.host = .write 0x00 4 0x00000003 :: .write 0x00 4 0x00000002 :: rest →
    s.sched =
      [Agent.host] ++ phaseTurns 2 ++ [.sequencer] ++ ([Agent.host] ++ phaseTurns 2 ++ [.sequencer] ++ agents) →
    ∃ t : State, Host.Core.run Sys2Proof.core 16 s = .next t ∧ t.regs.rdata = s.regs.wdata ∧ t.regs.result = 0 ∧
      t.ready ∧ t.host = rest

/-- 41_engine_ops R155, R157 with 40_bus_master R122: on the reference peripheral, a whole BURST_READ of n bytes fills
BUF[0..n-1] with the registers from RA on, modulo 256, and leaves the other bytes. -/
def Obligations.BurstReadFillsTheBuffer : Prop :=
  ∀ (s : State) (p : RefPeripheral) (n : Nat) (rest : List HostAction) (agents : List Agent),
    s.ready → s.env = .reference p → p.addr = s.regs.sa → p.nackAt = none → p.relatch = false →
    s.regs.count = BitVec.ofNat 8 n → 1 ≤ n → n ≤ 16 → s.host = .write 0x00 4 0x00000004 :: rest →
    s.sched = [Agent.host] ++ phaseTurns (n + 1) ++ [.sequencer] ++ agents →
    ∃ t : State, Host.Core.run Sys2Proof.core (3 * n + 5) s = .next t ∧ t.ready ∧ t.regs.result = 0 ∧
      (∀ k, k < n → bufByte t.regs k = p.mem.read ((s.regs.ra.toNat + k) % 256)) ∧
      (∀ k, n ≤ k → bufByte t.regs k = bufByte s.regs k) ∧
      t.trace = s.trace ++
        [.s, .addr s.regs.sa false .ack, .tx s.regs.ra .ack, .sr, .addr s.regs.sa true .ack] ++
        (List.range n).map (fun k =>
          WireEvent.rx (p.mem.read ((s.regs.ra.toNat + k) % 256)) (if k + 1 = n then .nack else .ack)) ++
        [.p]

/-! ### The bus environment's own step -/

/-- 00_scope R6, 40_bus_master R123: between two transactions the reference sensor with `relatch` may take a new sample, which
goes to the data registers' addresses and nowhere else; otherwise the environment's step has no effect. The sample is the next
one laid down, or a free one (log entry 9). -/
def Obligations.EnvironmentStep : Prop :=
  ∀ s : State, s.fault = none → nextAgent s = .environment →
    (∀ script, s.env = .oracle script → step s = .next (scheduled s)) ∧
    ∀ p, s.env = .reference p →
      (p.relatch = false ∨ s.m.held = true → step s = .next (scheduled s)) ∧
      (p.relatch = true → s.m.held = false → p.mem.wf = true →
        ∃ mem : Memory,
          step s = .next
            { scheduled s with
              env := .reference { p with mem := mem, samples := p.samples.tail }
              draws := (scheduled s).draws + 1 } ∧
          mem.wf = true ∧
          match p.samples.headD (Config.freeSample (scheduled s).draws (scheduled s).history) with
          | none => mem = p.mem
          | some v =>
            (∀ a, a ∉ sampleAddrs → mem.read a = p.mem.read a) ∧
            (∀ a ∈ sampleAddrs, (a, mem.read a) ∈ sampleAddrs.zip (sampleBytes v)))
end

