-- ==== Sys2Proof/Laws/State.lean ====
section
/-!
SUPPORT. What each update of a part of the state leaves in each field, so that no proof unfolds a record update.
-/

namespace Sys2Proof.Machine

/-! ### `setRegs` -/

@[simp] theorem State.setRegs_regs (s : State) (r : Regs) : (s.setRegs r).regs = r := rfl

@[simp] theorem State.setRegs_m (s : State) (r : Regs) : (s.setRegs r).m = s.m := rfl

@[simp] theorem State.setRegs_seq (s : State) (r : Regs) : (s.setRegs r).seq = s.seq := rfl

@[simp] theorem State.setRegs_fault (s : State) (r : Regs) : (s.setRegs r).fault = s.fault := rfl

@[simp] theorem State.setRegs_trace (s : State) (r : Regs) : (s.setRegs r).trace = s.trace := rfl

@[simp] theorem State.setRegs_past (s : State) (r : Regs) : (s.setRegs r).past = s.past := rfl

@[simp] theorem State.setRegs_waited (s : State) (r : Regs) : (s.setRegs r).waited = s.waited := rfl

@[simp] theorem State.setRegs_env (s : State) (r : Regs) : (s.setRegs r).env = s.env := rfl

@[simp] theorem State.setRegs_host (s : State) (r : Regs) : (s.setRegs r).host = s.host := rfl

@[simp] theorem State.setRegs_values (s : State) (r : Regs) : (s.setRegs r).values = s.values := rfl

@[simp] theorem State.setRegs_sched (s : State) (r : Regs) : (s.setRegs r).sched = s.sched := rfl

@[simp] theorem State.setRegs_draws (s : State) (r : Regs) : (s.setRegs r).draws = s.draws := rfl

@[simp] theorem State.setRegs_platform (s : State) (r : Regs) : (s.setRegs r).platform = s.platform := rfl

/-! ### `setMaster` -/

@[simp] theorem State.setMaster_regs (s : State) (m : Master) : (s.setMaster m).regs = s.regs := rfl

@[simp] theorem State.setMaster_m (s : State) (m : Master) : (s.setMaster m).m = m := rfl

@[simp] theorem State.setMaster_seq (s : State) (m : Master) : (s.setMaster m).seq = s.seq := rfl

@[simp] theorem State.setMaster_fault (s : State) (m : Master) : (s.setMaster m).fault = s.fault := rfl

@[simp] theorem State.setMaster_trace (s : State) (m : Master) : (s.setMaster m).trace = s.trace := rfl

@[simp] theorem State.setMaster_past (s : State) (m : Master) : (s.setMaster m).past = s.past := rfl

@[simp] theorem State.setMaster_waited (s : State) (m : Master) : (s.setMaster m).waited = s.waited := rfl

@[simp] theorem State.setMaster_env (s : State) (m : Master) : (s.setMaster m).env = s.env := rfl

@[simp] theorem State.setMaster_host (s : State) (m : Master) : (s.setMaster m).host = s.host := rfl

@[simp] theorem State.setMaster_values (s : State) (m : Master) : (s.setMaster m).values = s.values := rfl

@[simp] theorem State.setMaster_sched (s : State) (m : Master) : (s.setMaster m).sched = s.sched := rfl

@[simp] theorem State.setMaster_draws (s : State) (m : Master) : (s.setMaster m).draws = s.draws := rfl

@[simp] theorem State.setMaster_platform (s : State) (m : Master) : (s.setMaster m).platform = s.platform := rfl

/-! ### `setSeq` -/

@[simp] theorem State.setSeq_regs (s : State) (q : Seq) : (s.setSeq q).regs = s.regs := rfl

@[simp] theorem State.setSeq_m (s : State) (q : Seq) : (s.setSeq q).m = s.m := rfl

@[simp] theorem State.setSeq_seq (s : State) (q : Seq) : (s.setSeq q).seq = q := rfl

@[simp] theorem State.setSeq_fault (s : State) (q : Seq) : (s.setSeq q).fault = s.fault := rfl

@[simp] theorem State.setSeq_trace (s : State) (q : Seq) : (s.setSeq q).trace = s.trace := rfl

@[simp] theorem State.setSeq_past (s : State) (q : Seq) : (s.setSeq q).past = s.past := rfl

@[simp] theorem State.setSeq_waited (s : State) (q : Seq) : (s.setSeq q).waited = s.waited := rfl

@[simp] theorem State.setSeq_env (s : State) (q : Seq) : (s.setSeq q).env = s.env := rfl

@[simp] theorem State.setSeq_host (s : State) (q : Seq) : (s.setSeq q).host = s.host := rfl

@[simp] theorem State.setSeq_values (s : State) (q : Seq) : (s.setSeq q).values = s.values := rfl

@[simp] theorem State.setSeq_sched (s : State) (q : Seq) : (s.setSeq q).sched = s.sched := rfl

@[simp] theorem State.setSeq_draws (s : State) (q : Seq) : (s.setSeq q).draws = s.draws := rfl

@[simp] theorem State.setSeq_platform (s : State) (q : Seq) : (s.setSeq q).platform = s.platform := rfl

/-! ### `bump` -/

@[simp] theorem State.bump_regs (s : State) (k : Nat) : (s.bump k).regs = s.regs := rfl

@[simp] theorem State.bump_m (s : State) (k : Nat) : (s.bump k).m = s.m := rfl

@[simp] theorem State.bump_seq (s : State) (k : Nat) : (s.bump k).seq = s.seq := rfl

@[simp] theorem State.bump_fault (s : State) (k : Nat) : (s.bump k).fault = s.fault := rfl

@[simp] theorem State.bump_trace (s : State) (k : Nat) : (s.bump k).trace = s.trace := rfl

@[simp] theorem State.bump_past (s : State) (k : Nat) : (s.bump k).past = s.past := rfl

@[simp] theorem State.bump_waited (s : State) (k : Nat) : (s.bump k).waited = s.waited := rfl

@[simp] theorem State.bump_env (s : State) (k : Nat) : (s.bump k).env = s.env := rfl

@[simp] theorem State.bump_host (s : State) (k : Nat) : (s.bump k).host = s.host := rfl

@[simp] theorem State.bump_values (s : State) (k : Nat) : (s.bump k).values = s.values := rfl

@[simp] theorem State.bump_sched (s : State) (k : Nat) : (s.bump k).sched = s.sched := rfl

@[simp] theorem State.bump_draws (s : State) (k : Nat) : (s.bump k).draws = s.draws + k := rfl

@[simp] theorem State.bump_platform (s : State) (k : Nat) : (s.bump k).platform = s.platform := rfl

/-! ### `setOvr` -/

@[simp] theorem State.setOvr_regs (s : State) :
    s.setOvr.regs = { s.regs with status := { s.regs.status with ovr := true } } := rfl

@[simp] theorem State.setOvr_m (s : State) : s.setOvr.m = s.m := rfl

@[simp] theorem State.setOvr_seq (s : State) : s.setOvr.seq = s.seq := rfl

@[simp] theorem State.setOvr_fault (s : State) : s.setOvr.fault = s.fault := rfl

@[simp] theorem State.setOvr_trace (s : State) : s.setOvr.trace = s.trace := rfl

@[simp] theorem State.setOvr_past (s : State) : s.setOvr.past = s.past := rfl

@[simp] theorem State.setOvr_waited (s : State) : s.setOvr.waited = s.waited := rfl

@[simp] theorem State.setOvr_env (s : State) : s.setOvr.env = s.env := rfl

@[simp] theorem State.setOvr_host (s : State) : s.setOvr.host = s.host := rfl

@[simp] theorem State.setOvr_values (s : State) : s.setOvr.values = s.values := rfl

@[simp] theorem State.setOvr_sched (s : State) : s.setOvr.sched = s.sched := rfl

@[simp] theorem State.setOvr_draws (s : State) : s.setOvr.draws = s.draws := rfl

@[simp] theorem State.setOvr_platform (s : State) : s.setOvr.platform = s.platform := rfl

/-! ### `reject` -/

@[simp] theorem State.reject_regs (s : State) :
    s.reject.regs = { s.regs with status := { s.regs.status with badCmd := true } } := rfl

@[simp] theorem State.reject_m (s : State) : s.reject.m = s.m := rfl

@[simp] theorem State.reject_seq (s : State) : s.reject.seq = s.seq := rfl

@[simp] theorem State.reject_fault (s : State) : s.reject.fault = s.fault := rfl

@[simp] theorem State.reject_trace (s : State) : s.reject.trace = s.trace := rfl

@[simp] theorem State.reject_past (s : State) : s.reject.past = s.past := rfl

@[simp] theorem State.reject_waited (s : State) : s.reject.waited = s.waited := rfl

@[simp] theorem State.reject_env (s : State) : s.reject.env = s.env := rfl

@[simp] theorem State.reject_host (s : State) : s.reject.host = s.host := rfl

@[simp] theorem State.reject_values (s : State) : s.reject.values = s.values := rfl

@[simp] theorem State.reject_sched (s : State) : s.reject.sched = s.sched := rfl

@[simp] theorem State.reject_draws (s : State) : s.reject.draws = s.draws := rfl

@[simp] theorem State.reject_platform (s : State) : s.reject.platform = s.platform := rfl

/-! ### `setAddr` -/

@[simp] theorem setAddr_regs (a : BusAddr) (rw : Bool) (s : State) : (setAddr a rw s).regs = s.regs := rfl

@[simp] theorem setAddr_m (a : BusAddr) (rw : Bool) (s : State) : (setAddr a rw s).m = { s.m with sa := addrByte a rw } := rfl

@[simp] theorem setAddr_seq (a : BusAddr) (rw : Bool) (s : State) : (setAddr a rw s).seq = s.seq := rfl

@[simp] theorem setAddr_fault (a : BusAddr) (rw : Bool) (s : State) : (setAddr a rw s).fault = s.fault := rfl

@[simp] theorem setAddr_trace (a : BusAddr) (rw : Bool) (s : State) : (setAddr a rw s).trace = s.trace := rfl

@[simp] theorem setAddr_past (a : BusAddr) (rw : Bool) (s : State) : (setAddr a rw s).past = s.past := rfl

@[simp] theorem setAddr_waited (a : BusAddr) (rw : Bool) (s : State) : (setAddr a rw s).waited = s.waited := rfl

@[simp] theorem setAddr_env (a : BusAddr) (rw : Bool) (s : State) : (setAddr a rw s).env = s.env := rfl

@[simp] theorem setAddr_host (a : BusAddr) (rw : Bool) (s : State) : (setAddr a rw s).host = s.host := rfl

@[simp] theorem setAddr_values (a : BusAddr) (rw : Bool) (s : State) : (setAddr a rw s).values = s.values := rfl

@[simp] theorem setAddr_sched (a : BusAddr) (rw : Bool) (s : State) : (setAddr a rw s).sched = s.sched := rfl

@[simp] theorem setAddr_draws (a : BusAddr) (rw : Bool) (s : State) : (setAddr a rw s).draws = s.draws := rfl

@[simp] theorem setAddr_platform (a : BusAddr) (rw : Bool) (s : State) : (setAddr a rw s).platform = s.platform := rfl

/-! ### `setData` -/

@[simp] theorem setData_regs (b : Byte) (s : State) : (setData b s).regs = s.regs := rfl

@[simp] theorem setData_m (b : Byte) (s : State) : (setData b s).m = { s.m with dr := b } := rfl

@[simp] theorem setData_seq (b : Byte) (s : State) : (setData b s).seq = s.seq := rfl

@[simp] theorem setData_fault (b : Byte) (s : State) : (setData b s).fault = s.fault := rfl

@[simp] theorem setData_trace (b : Byte) (s : State) : (setData b s).trace = s.trace := rfl

@[simp] theorem setData_past (b : Byte) (s : State) : (setData b s).past = s.past := rfl

@[simp] theorem setData_waited (b : Byte) (s : State) : (setData b s).waited = s.waited := rfl

@[simp] theorem setData_env (b : Byte) (s : State) : (setData b s).env = s.env := rfl

@[simp] theorem setData_host (b : Byte) (s : State) : (setData b s).host = s.host := rfl

@[simp] theorem setData_values (b : Byte) (s : State) : (setData b s).values = s.values := rfl

@[simp] theorem setData_sched (b : Byte) (s : State) : (setData b s).sched = s.sched := rfl

@[simp] theorem setData_draws (b : Byte) (s : State) : (setData b s).draws = s.draws := rfl

@[simp] theorem setData_platform (b : Byte) (s : State) : (setData b s).platform = s.platform := rfl

/-! ### `goto` -/

@[simp] theorem goto_regs (p : Phase) (s : State) : (goto p s).regs = s.regs := rfl

@[simp] theorem goto_m (p : Phase) (s : State) : (goto p s).m = s.m := rfl

@[simp] theorem goto_seq (p : Phase) (s : State) : (goto p s).seq = { s.seq with phase := p, issued := false } := rfl

@[simp] theorem goto_fault (p : Phase) (s : State) : (goto p s).fault = s.fault := rfl

@[simp] theorem goto_trace (p : Phase) (s : State) : (goto p s).trace = s.trace := rfl

@[simp] theorem goto_past (p : Phase) (s : State) : (goto p s).past = s.past := rfl

@[simp] theorem goto_waited (p : Phase) (s : State) : (goto p s).waited = s.waited := rfl

@[simp] theorem goto_env (p : Phase) (s : State) : (goto p s).env = s.env := rfl

@[simp] theorem goto_host (p : Phase) (s : State) : (goto p s).host = s.host := rfl

@[simp] theorem goto_values (p : Phase) (s : State) : (goto p s).values = s.values := rfl

@[simp] theorem goto_sched (p : Phase) (s : State) : (goto p s).sched = s.sched := rfl

@[simp] theorem goto_draws (p : Phase) (s : State) : (goto p s).draws = s.draws := rfl

@[simp] theorem goto_platform (p : Phase) (s : State) : (goto p s).platform = s.platform := rfl

/-! ### `markIssued` -/

@[simp] theorem markIssued_regs (b : Bool) (s : State) : (markIssued b s).regs = s.regs := rfl

@[simp] theorem markIssued_m (b : Bool) (s : State) : (markIssued b s).m = s.m := rfl

@[simp] theorem markIssued_seq (b : Bool) (s : State) : (markIssued b s).seq = { s.seq with issued := b } := rfl

@[simp] theorem markIssued_fault (b : Bool) (s : State) : (markIssued b s).fault = s.fault := rfl

@[simp] theorem markIssued_trace (b : Bool) (s : State) : (markIssued b s).trace = s.trace := rfl

@[simp] theorem markIssued_past (b : Bool) (s : State) : (markIssued b s).past = s.past := rfl

@[simp] theorem markIssued_waited (b : Bool) (s : State) : (markIssued b s).waited = s.waited := rfl

@[simp] theorem markIssued_env (b : Bool) (s : State) : (markIssued b s).env = s.env := rfl

@[simp] theorem markIssued_host (b : Bool) (s : State) : (markIssued b s).host = s.host := rfl

@[simp] theorem markIssued_values (b : Bool) (s : State) : (markIssued b s).values = s.values := rfl

@[simp] theorem markIssued_sched (b : Bool) (s : State) : (markIssued b s).sched = s.sched := rfl

@[simp] theorem markIssued_draws (b : Bool) (s : State) : (markIssued b s).draws = s.draws := rfl

@[simp] theorem markIssued_platform (b : Bool) (s : State) : (markIssued b s).platform = s.platform := rfl

/-! ### `finishCommand` -/

@[simp] theorem finishCommand_regs (g : Regs → Regs) (s : State) :
    (finishCommand g s).regs = { g s.regs with status := { (g s.regs).status with busy := false } } := rfl

@[simp] theorem finishCommand_m (g : Regs → Regs) (s : State) : (finishCommand g s).m = s.m := rfl

@[simp] theorem finishCommand_seq (g : Regs → Regs) (s : State) :
    (finishCommand g s).seq = { s.seq with op := none, phase := .idle, issued := false } := rfl

@[simp] theorem finishCommand_fault (g : Regs → Regs) (s : State) : (finishCommand g s).fault = s.fault := rfl

@[simp] theorem finishCommand_trace (g : Regs → Regs) (s : State) : (finishCommand g s).trace = s.trace := rfl

@[simp] theorem finishCommand_past (g : Regs → Regs) (s : State) : (finishCommand g s).past = s.past := rfl

@[simp] theorem finishCommand_waited (g : Regs → Regs) (s : State) : (finishCommand g s).waited = s.waited := rfl

@[simp] theorem finishCommand_env (g : Regs → Regs) (s : State) : (finishCommand g s).env = s.env := rfl

@[simp] theorem finishCommand_host (g : Regs → Regs) (s : State) : (finishCommand g s).host = s.host := rfl

@[simp] theorem finishCommand_values (g : Regs → Regs) (s : State) : (finishCommand g s).values = s.values := rfl

@[simp] theorem finishCommand_sched (g : Regs → Regs) (s : State) : (finishCommand g s).sched = s.sched := rfl

@[simp] theorem finishCommand_draws (g : Regs → Regs) (s : State) : (finishCommand g s).draws = s.draws := rfl

@[simp] theorem finishCommand_platform (g : Regs → Regs) (s : State) : (finishCommand g s).platform = s.platform := rfl

/-! ### `applyReset` -/

@[simp] theorem applyReset_regs (s : State) : (applyReset s).regs = Regs.reset := rfl

@[simp] theorem applyReset_m (s : State) : (applyReset s).m = Master.reset := rfl

@[simp] theorem applyReset_seq (s : State) : (applyReset s).seq = Seq.reset := rfl

@[simp] theorem applyReset_fault (s : State) : (applyReset s).fault = s.fault := rfl

@[simp] theorem applyReset_trace (s : State) : (applyReset s).trace = s.trace := rfl

@[simp] theorem applyReset_past (s : State) : (applyReset s).past = s.past := rfl

@[simp] theorem applyReset_waited (s : State) : (applyReset s).waited = s.waited := rfl

@[simp] theorem applyReset_env (s : State) : (applyReset s).env = s.env := rfl

@[simp] theorem applyReset_host (s : State) : (applyReset s).host = s.host := rfl

@[simp] theorem applyReset_values (s : State) : (applyReset s).values = s.values := rfl

@[simp] theorem applyReset_sched (s : State) : (applyReset s).sched = s.sched := rfl

@[simp] theorem applyReset_draws (s : State) : (applyReset s).draws = s.draws := rfl

@[simp] theorem applyReset_platform (s : State) : (applyReset s).platform = s.platform := rfl

/-! ### `history` -/

@[simp] theorem State.history_trace (s : State) : s.history.trace = s.trace := rfl

@[simp] theorem State.history_steps (s : State) : s.history.steps = s.past := rfl

end Sys2Proof.Machine
end

