-- ==== Sys2Proof/Laws/Ops.lean ====
section
/-!
SUPPORT. For each shared operation, everything it can do, said once. A proof cites these instead of unfolding.
-/

namespace Sys2Proof.Machine

/-- `accept` faults on a bus command before INIT, and otherwise gives this one state. -/
theorem accept_cases (op : HostCmd) (p : Phase) (s : State) :
    (op.usesBus = true ∧ s.regs.status.initDone = false ∧ accept op p s = .fault (.uninitUse op.code)) ∨
    ((op.usesBus = true → s.regs.status.initDone = true) ∧
      accept op p s = .next
        { s with
          regs := { s.regs with status := { s.regs.status with ovr := false, badCmd := false, busy := true } }
          seq :=
            { s.seq with
              op := some op, phase := p, issued := false, i := 0, t := 0, err := 0, rx := false, sa := s.regs.sa,
              ra := s.regs.ra, wd := s.regs.wdata, n := s.regs.count } }) := by
  unfold accept
  cases op.usesBus <;> cases s.regs.status.initDone <;> simp

/-- `issue` that goes on: the three checks of R103 passed, and this is the state. -/
theorem issue_next {c : BitVec 4} {s t : State} (h : issue c s = .next t) :
    s.m.en = true ∧ mcmdLegal c = true ∧ (mcmdNeedsHeld c = true → s.m.held = true) ∧
      t = s.setMaster { s.m.clearErrors with cmd := c, busy := true } := by
  unfold issue at h
  cases hen : s.m.en <;> cases hl : mcmdLegal c <;> cases hn : mcmdNeedsHeld c <;> cases hh : s.m.held <;>
    simp_all

/-- `issue` that faults: one of the checks of R103 failed. -/
theorem issue_fault {c : BitVec 4} {s : State} {r : Fault} (h : issue c s = .fault r) :
    (s.m.en = false ∧ r = .uninitUse (opInfo s)) ∨
    (r = .masterProtocol c ∧ (mcmdLegal c = false ∨ (mcmdNeedsHeld c = true ∧ s.m.held = false))) := by
  unfold issue at h
  cases hen : s.m.en <;> cases hl : mcmdLegal c <;> cases hn : mcmdNeedsHeld c <;> cases hh : s.m.held <;>
    simp_all

/-- An issue whose checks pass. -/
theorem issue_ok {c : BitVec 4} {s : State} (hen : s.m.en = true) (hl : mcmdLegal c = true)
    (hh : mcmdNeedsHeld c = true → s.m.held = true) :
    issue c s = .next (s.setMaster { s.m.clearErrors with cmd := c, busy := true }) := by
  unfold issue
  cases hn : mcmdNeedsHeld c <;> simp_all

/-- One step of a phase: it issues, waits or judges. -/
theorem phaseStep_next {f : State → State} {c : BitVec 4} {g : State → State} {s t : State}
    (h : phaseStep f c g s = .next t) :
    (s.seq.issued = false ∧ ∃ u, issue c (f s) = .next u ∧ t = markIssued true u) ∨
    (s.seq.issued = true ∧ s.m.busy = true ∧ t = s) ∨
    (s.seq.issued = true ∧ s.m.busy = false ∧ t = g (markIssued false s)) := by
  unfold phaseStep at h
  cases hi : s.seq.issued
  · left
    simp only [hi, Bool.false_eq_true, if_false] at h
    split at h
    · rename_i u hu
      exact ⟨rfl, u, hu, by simpa using h.symm⟩
    · cases h
    · cases h
  · right
    simp only [hi, if_true] at h
    cases hb : s.m.busy
    · right
      exact ⟨rfl, rfl, by simpa [hb] using h.symm⟩
    · left
      exact ⟨rfl, rfl, by simpa [hb] using h.symm⟩

/-- A phase faults only where its issue does. -/
theorem phaseStep_fault {f : State → State} {c : BitVec 4} {g : State → State} {s : State} {r : Fault}
    (h : phaseStep f c g s = .fault r) : s.seq.issued = false ∧ issue c (f s) = .fault r := by
  unfold phaseStep at h
  cases hi : s.seq.issued
  · simp only [hi, Bool.false_eq_true, if_false] at h
    split at h
    · cases h
    · rename_i r' hr
      exact ⟨rfl, by rw [hr]; simpa using h⟩
    · cases h
  · simp only [hi, if_true] at h
    cases hb : s.m.busy <;> simp [hb] at h

/-- What a command does: acceptance, its next sequencer step, or OVR. -/
theorem runCommand_cases (op : HostCmd) (start body : State → Result) (s : State) :
    (s.regs.status.busy = false ∧ runCommand op start body s = start s) ∨
    (s.regs.status.busy = true ∧ s.seq.op = some op ∧ runCommand op start body s = body s) ∨
    (s.regs.status.busy = true ∧ s.seq.op ≠ some op ∧ runCommand op start body s = .next s.setOvr) := by
  unfold runCommand
  cases hb : s.regs.status.busy
  · simp
  · by_cases ho : s.seq.op = some op <;> simp [ho]

/-- What a master command does: its completion, nothing, or issue and completion. -/
theorem runMcmd_cases (c : BitVec 4) (s : State) :
    (s.m.busy = true ∧ s.m.cmd = c ∧ runMcmd c s = .next (masterStep c s)) ∨
    (s.m.busy = true ∧ s.m.cmd ≠ c ∧ runMcmd c s = .next s) ∨
    (s.m.busy = false ∧ ∃ t, issue c s = .next t ∧ runMcmd c s = .next (masterStep c t)) ∨
    (s.m.busy = false ∧ ∃ r, issue c s = .fault r ∧ runMcmd c s = .fault r) := by
  unfold runMcmd
  cases hb : s.m.busy
  · simp only [Bool.false_eq_true, if_false, false_and, false_or, true_and]
    rcases hi : issue c s with t | r | r
    · left; exact ⟨t, rfl, rfl⟩
    · right; exact ⟨r, rfl, rfl⟩
    · exfalso
      unfold issue at hi
      cases hen : s.m.en <;> cases hl : mcmdLegal c <;> cases hn : mcmdNeedsHeld c <;> cases hh : s.m.held <;>
        simp_all
  · by_cases hc : s.m.cmd = c <;> simp [hc]

/-- A step with no fault recorded is one agent's move. -/
theorem stepWith_of_no_fault (run : Instr → State → Result) (s : State) (h : s.fault = none) :
    stepWith run s = agentMove run (nextAgent s) (scheduled s) := by
  unfold stepWith
  rw [h]

/-- A recorded fault stops every step. -/
theorem stepWith_of_fault (run : Instr → State → Result) (s : State) (r : Fault) (h : s.fault = some r) :
    stepWith run s = .fault r := by
  unfold stepWith
  rw [h]

/-- Only on a reference peripheral, and only while the master works, is its move required. -/
theorem mustComplete_iff (s : State) :
    mustComplete s = true ↔
      (∃ p, s.env = .reference p) ∧ s.m.busy = true ∧ Config.freeWait s.trace < s.waited := by
  unfold mustComplete
  cases h : s.env <;> simp

/-- Who moves next: the chosen agent, or the master in the place of one that is neither the master nor a reset. -/
theorem nextAgent_cases (s : State) :
    (preempted s = false ∧ nextAgent s = chosenAgent s) ∨
    (preempted s = true ∧ mustComplete s = true ∧ chosenAgent s ≠ .reset ∧ chosenAgent s ≠ .master ∧
      nextAgent s = .master) := by
  unfold nextAgent
  cases h : preempted s
  · exact Or.inl ⟨rfl, rfl⟩
  · simp only [preempted, Bool.and_eq_true, Bool.not_eq_true', Bool.or_eq_false_iff, beq_eq_false_iff_ne] at h
    exact Or.inr ⟨rfl, h.1, h.2.1, h.2.2, rfl⟩

/-- A reset gets its turn whenever it is chosen, and only then. -/
theorem nextAgent_reset_iff (s : State) : nextAgent s = .reset ↔ chosenAgent s = .reset := by
  rcases nextAgent_cases s with ⟨_, h⟩ | ⟨_, _, h1, _, h2⟩
  · rw [h]
  · simp [h1, h2]

/-- Where its command must complete, the master moves, or a reset does. -/
theorem nextAgent_of_mustComplete (s : State) (h : mustComplete s = true) :
    nextAgent s = .master ∨ nextAgent s = .reset := by
  unfold nextAgent preempted
  cases chosenAgent s <;> simp [h]

/-- While the master has nothing to do, the chosen agent moves. -/
theorem nextAgent_of_idle (s : State) (h : s.m.busy = false) : preempted s = false ∧ nextAgent s = chosenAgent s := by
  have hp : preempted s = false := by
    unfold preempted mustComplete
    cases s.env <;> simp [h]
  exact ⟨hp, by simp [nextAgent, hp]⟩

/-- Choosing the agent touches the order of agents, the wait, the draw counter and the history of steps alone. -/
theorem scheduled_frame (s : State) :
    (scheduled s).regs = s.regs ∧ (scheduled s).m = s.m ∧ (scheduled s).seq = s.seq ∧
    (scheduled s).fault = s.fault ∧ (scheduled s).trace = s.trace ∧ (scheduled s).env = s.env ∧
    (scheduled s).host = s.host ∧ (scheduled s).values = s.values ∧ (scheduled s).platform = s.platform :=
  ⟨rfl, rfl, rfl, rfl, rfl, rfl, rfl, rfl, rfl⟩

/-- The environment's own step: nothing, or one choice of the reference sensor while the bus is not held. -/
theorem environmentMove_cases (s : State) :
    environmentMove s = s ∨
    ∃ p, s.env = .reference p ∧ p.relatch = true ∧ s.m.held = false ∧
      environmentMove s = { s with env := .reference (p.relatchPoint s.draws s.history), draws := s.draws + 1 } := by
  unfold environmentMove
  split
  · exact Or.inl rfl
  · rename_i p hp
    split
    · rename_i h
      simp only [Bool.and_eq_true, Bool.not_eq_true'] at h
      exact Or.inr ⟨p, hp, h.1, h.2, rfl⟩
    · exact Or.inl rfl

/-- The environment's own step touches the environment and the draw counter alone. -/
theorem environmentMove_frame (s : State) :
    (environmentMove s).regs = s.regs ∧ (environmentMove s).m = s.m ∧ (environmentMove s).seq = s.seq ∧
    (environmentMove s).fault = s.fault ∧ (environmentMove s).trace = s.trace ∧ (environmentMove s).past = s.past ∧
    (environmentMove s).host = s.host ∧ (environmentMove s).values = s.values ∧
    (environmentMove s).sched = s.sched ∧ (environmentMove s).waited = s.waited ∧
    (environmentMove s).platform = s.platform := by
  rcases environmentMove_cases s with h | ⟨p, _, _, _, h⟩ <;> rw [h] <;> simp

end Sys2Proof.Machine
end

