-- ==== Sys2Proof/Laws/Commands.lean ====
section
/-!
SUPPORT. What a host command's step does to the host registers: while no command runs it is the acceptance, which writes
STATUS alone; while it runs, only its DONE step and BURST_READ's stored byte write a register.
-/

namespace Sys2Proof.Machine

/-! ### Acceptance -/

/-- Acceptance writes no register but STATUS.BUSY, OVR and BADCMD. -/
theorem accept_regs {op : HostCmd} {p : Phase} {s t : State} (h : accept op p s = .next t) :
    t.seq.op = some op ∧
    t.regs = { s.regs with status := { s.regs.status with ovr := false, badCmd := false, busy := true } } := by
  rcases accept_cases op p s with ⟨_, _, h'⟩ | ⟨_, h'⟩
  · rw [h'] at h; cases h
  · rw [h'] at h; cases h; exact ⟨rfl, rfl⟩

/-- A burst's acceptance, or its rejection. -/
theorem burstStart_regs {op : HostCmd} {s t : State} (h : burstStart op s = .next t) :
    t = s.rejecting ∨
    (t.seq.op = some op ∧
      t.regs = { s.regs with status := { s.regs.status with ovr := false, badCmd := false, busy := true } }) := by
  unfold burstStart at h
  split at h
  · left; cases h; rfl
  · right; exact accept_regs h

/-- A command while no command runs: rejection or acceptance. -/
theorem exec_idle_regs (op : HostCmd) {s t : State} (hb : s.regs.status.busy = false)
    (h : exec op.instr s = .next t) :
    t = s.rejecting ∨
    (t.seq.op = some op ∧
      t.regs = { s.regs with status := { s.regs.status with ovr := false, badCmd := false, busy := true } }) := by
  have key (op' : HostCmd) (st body : State → Result) : runCommand op' st body s = st s := by
    simp [runCommand, hb]
  cases op <;>
    simp only [exec, HostCmd.instr, execInit, execReadReg, execWriteReg, execBurstRead, execBurstWrite, execReadAccel,
      execReadGyro, execScaleAccel, execScaleGyro, execEstimate, key] at h <;>
    first
    | exact Or.inr (accept_regs h)
    | exact burstStart_regs h

/-! ### Phases -/

/-- A phase writes no host register but through its judgement. -/
theorem phaseStep_regs {f : State → State} {c : BitVec 4} {g : State → State} {s t : State}
    (hf : (f s).regs = s.regs) (h : phaseStep f c g s = .next t) :
    t.regs = s.regs ∨ (s.seq.issued = true ∧ s.m.busy = false ∧ t = g (markIssued false s)) := by
  rcases phaseStep_next h with ⟨_, u, hu, rfl⟩ | ⟨_, _, rfl⟩ | h'
  · left
    obtain ⟨_, _, _, rfl⟩ := issue_next hu
    simpa using hf
  · exact Or.inl rfl
  · exact Or.inr h'

@[simp] theorem abort_regs (s : State) : (abort s).regs = s.regs := rfl

theorem unlessError_regs {g : State → State} {s : State} (hg : (g s).regs = s.regs) :
    (unlessError g s).regs = s.regs := by
  unfold unlessError
  split
  · rfl
  · exact hg

theorem nextByte_regs (p : Phase) (s : State) : (nextByte p s).regs = s.regs := by
  unfold nextByte
  split <;> rfl

theorem gathered_regs (s : State) : (gathered s).regs = s.regs := by
  unfold gathered rdtxTaken
  cases s.seq.rx <;> simp only [Bool.false_eq_true, if_false, if_true] <;> split <;> rfl

theorem received_regs (s : State) :
    (received s).regs = s.regs ∨
    (s.m.error = false ∧ (received s).regs = { s.regs with buf := s.regs.buf.setIfInBounds s.seq.i.toNat s.m.dr }) := by
  unfold received unlessError
  cases he : s.m.error
  · right
    refine ⟨rfl, ?_⟩
    simp only [Bool.false_eq_true, if_false, nextByte_regs]
    rfl
  · exact Or.inl rfl

/-! ### The commands while they run -/

/-- A phase whose judgement writes no register. -/
theorem phaseStep_regs_eq {f : State → State} {c : BitVec 4} {g : State → State} {s t : State}
    (hf : (f s).regs = s.regs) (hg : (g (markIssued false s)).regs = s.regs) (h : phaseStep f c g s = .next t) :
    t.regs = s.regs := by
  rcases phaseStep_regs hf h with h' | ⟨_, _, rfl⟩
  · exact h'
  · exact hg

/-- The registers that a command's DONE step leaves, as a function of the state it starts from. -/
def doneRegs (op : HostCmd) (s : State) : Regs :=
  match op with
  | .init => { s.regs with status := { s.regs.status with initDone := true } }
  | .readReg => { s.regs with rdata := rdtxByte s }
  | .writeReg => { s.regs with result := s.seq.err }
  | .burstRead => { s.regs with result := s.seq.err }
  | .burstWrite => { s.regs with result := s.seq.err }
  | .readAccel => { s.regs with accRaw := assembleTmp s.seq }
  | .readGyro => { s.regs with gyrRaw := assembleTmp s.seq }
  | .scaleAccel => scaleAccelResults Config.tierOf Config.scaleEval (rdtxByte s) s.regs
  | .scaleGyro => scaleGyroResults Config.tierOf Config.scaleEval (rdtxByte s) s.regs
  | .estimate => estimateResults atanDeg s.draws s.regs

/-- A running command's step: no register, or its DONE step, or the byte that BURST_READ stores. -/
theorem exec_running_regs (op : HostCmd) {s t : State} (hb : s.regs.status.busy = true) (ho : s.seq.op = some op)
    (h : exec op.instr s = .next t) :
    t.regs = s.regs ∨
    (s.seq.phase = .done ∧ t.seq.op = none ∧ t.seq.phase = .idle ∧
      t.regs = { doneRegs op s with status := { (doneRegs op s).status with busy := false } }) ∨
    (op = .burstRead ∧ (s.seq.phase = .startAddrR ∨ s.seq.phase = .recvByte) ∧ s.m.error = false ∧
      t.regs = { s.regs with buf := s.regs.buf.setIfInBounds s.seq.i.toNat s.m.dr }) := by
  have key (op' : HostCmd) (st body : State → Result) (h' : op' = op) : runCommand op' st body s = body s := by
    subst h'; simp [runCommand, hb, ho]
  have abort_ (h' : stopAbortStep s = .next t) : t.regs = s.regs := phaseStep_regs_eq rfl rfl h'
  have addr (p : Phase) (h' : addressPhase p s = .next t) : t.regs = s.regs :=
    phaseStep_regs_eq rfl (unlessError_regs rfl) h'
  have read1 (a : BusAddr) (r : Byte) (h' : rdtxWrite a r s = .next t) : t.regs = s.regs := phaseStep_regs_eq rfl rfl h'
  cases op <;>
    simp only [exec, HostCmd.instr, execInit, execReadReg, execWriteReg, execBurstRead, execBurstWrite, execReadAccel,
      execReadGyro, execScaleAccel, execScaleGyro, execEstimate, key _ _ _ rfl] at h
  case init =>
    unfold initBody at h
    split at h
    · cases h; exact Or.inl rfl
    · rename_i hp; cases h; exact Or.inr (Or.inl ⟨hp, rfl, rfl, rfl⟩)
    · cases h; exact Or.inl rfl
  case readReg =>
    unfold readRegBody at h
    split at h
    · exact Or.inl (read1 _ _ h)
    · exact Or.inl (phaseStep_regs_eq rfl rfl h)
    · rename_i hp; cases h
      refine Or.inr (Or.inl ⟨hp, rfl, rfl, ?_⟩)
      unfold rdtxTaken
      cases s.seq.rx <;> rfl
    · cases h; exact Or.inl rfl
  case writeReg =>
    unfold writeRegBody at h
    split at h
    · exact Or.inl (addr _ h)
    · exact Or.inl (phaseStep_regs_eq rfl (unlessError_regs rfl) h)
    · exact Or.inl (abort_ h)
    · rename_i hp; cases h; exact Or.inr (Or.inl ⟨hp, rfl, rfl, rfl⟩)
    · cases h; exact Or.inl rfl
  case burstRead =>
    have rx (f : State → State) (c : BitVec 4) (hf : (f s).regs = s.regs) (h' : phaseStep f c received s = .next t) :
        t.regs = s.regs ∨ (s.m.error = false ∧
          t.regs = { s.regs with buf := s.regs.buf.setIfInBounds s.seq.i.toNat s.m.dr }) := by
      rcases phaseStep_regs hf h' with h'' | ⟨_, _, rfl⟩
      · exact Or.inl h''
      · exact received_regs (markIssued false s)
    unfold burstReadBody at h
    split at h
    · exact Or.inl (addr _ h)
    · rename_i hp
      rcases rx _ _ (by rfl) h with h' | ⟨he, h'⟩
      · exact Or.inl h'
      · exact Or.inr (Or.inr ⟨rfl, Or.inl hp, he, h'⟩)
    · rename_i hp
      rcases rx _ _ (by rfl) h with h' | ⟨he, h'⟩
      · exact Or.inl h'
      · exact Or.inr (Or.inr ⟨rfl, Or.inr hp, he, h'⟩)
    · exact Or.inl (abort_ h)
    · rename_i hp; cases h; exact Or.inr (Or.inl ⟨hp, rfl, rfl, rfl⟩)
    · cases h; exact Or.inl rfl
  case burstWrite =>
    unfold burstWriteBody at h
    split at h
    · exact Or.inl (addr _ h)
    · exact Or.inl (phaseStep_regs_eq rfl (unlessError_regs (nextByte_regs _ _)) h)
    · exact Or.inl (abort_ h)
    · rename_i hp; cases h; exact Or.inr (Or.inl ⟨hp, rfl, rfl, rfl⟩)
    · cases h; exact Or.inl rfl
  case readAccel =>
    unfold sampleBody at h
    split at h
    · exact Or.inl (read1 _ _ h)
    · unfold rdtxRead at h
      refine Or.inl (phaseStep_regs_eq rfl ?_ h)
      exact gathered_regs _
    · rename_i hp; cases h; exact Or.inr (Or.inl ⟨hp, rfl, rfl, rfl⟩)
    · cases h; exact Or.inl rfl
  case readGyro =>
    unfold sampleBody at h
    split at h
    · exact Or.inl (read1 _ _ h)
    · unfold rdtxRead at h
      refine Or.inl (phaseStep_regs_eq rfl ?_ h)
      exact gathered_regs _
    · rename_i hp; cases h; exact Or.inr (Or.inl ⟨hp, rfl, rfl, rfl⟩)
    · cases h; exact Or.inl rfl
  case scaleAccel =>
    unfold scaleBody at h
    split at h
    · exact Or.inl (read1 _ _ h)
    · exact Or.inl (phaseStep_regs_eq rfl rfl h)
    · cases h; exact Or.inl rfl
    · rename_i hp; cases h
      refine Or.inr (Or.inl ⟨hp, rfl, rfl, ?_⟩)
      unfold rdtxTaken
      cases hr : s.seq.rx <;> rfl
    · cases h; exact Or.inl rfl
  case scaleGyro =>
    unfold scaleBody at h
    split at h
    · exact Or.inl (read1 _ _ h)
    · exact Or.inl (phaseStep_regs_eq rfl rfl h)
    · cases h; exact Or.inl rfl
    · rename_i hp; cases h
      refine Or.inr (Or.inl ⟨hp, rfl, rfl, ?_⟩)
      unfold rdtxTaken
      cases hr : s.seq.rx <;> rfl
    · cases h; exact Or.inl rfl
  case estimate =>
    unfold estimateBody at h
    split at h
    · cases h; exact Or.inl rfl
    · rename_i hp; cases h; exact Or.inr (Or.inl ⟨hp, rfl, rfl, rfl⟩)
    · cases h; exact Or.inl rfl

/-- A master command's step writes no host register. -/
theorem runMcmd_regs {c : BitVec 4} {s t : State} (h : runMcmd c s = .next t) : t.regs = s.regs := by
  rcases runMcmd_cases c s with ⟨_, _, h'⟩ | ⟨_, _, h'⟩ | ⟨_, u, hu, h'⟩ | ⟨_, r, _, h'⟩
  · rw [h'] at h; cases h; rfl
  · rw [h'] at h; cases h; rfl
  · rw [h'] at h; cases h
    obtain ⟨_, _, _, rfl⟩ := issue_next hu
    rfl
  · rw [h'] at h; cases h

end Sys2Proof.Machine
end

