-- ==== Sys2Proof/Laws/Float.lean ====
section
/-!
SUPPORT. Patterns taken apart and put together: sign and magnitude, the special values, the free NaN, and the magnitudes
of the angle function.
-/

namespace Sys2Proof.Machine

/-! ### Sign and magnitude -/

theorem magOf_lt (x : F32) : magOf x < 2 ^ 31 := by
  unfold magOf
  omega

theorem magOf_pack32 (b : Bool) (m : Nat) (h : m < 2 ^ 31) : magOf (pack32 b m) = m := by
  unfold magOf pack32
  cases b <;> simp <;> omega

theorem signOf_pack32 (b : Bool) (m : Nat) (h : m < 2 ^ 31) : signOf (pack32 b m) = b := by
  unfold signOf pack32
  rw [BitVec.getLsbD_ofNat]
  cases b
  · simp [Nat.testBit_lt_two_pow h]
  · simp only [if_true]
    rw [show m + 0x80000000 = 2 ^ 31 + m by omega, Nat.testBit_two_pow_add_eq]
    simp [Nat.testBit_lt_two_pow h]

/-- A pattern is its sign and its magnitude. -/
theorem pack32_parts (x : F32) : pack32 (signOf x) (magOf x) = x := by
  apply BitVec.eq_of_toNat_eq
  have hx := x.isLt
  have hs : signOf x = decide (2 ^ 31 ≤ x.toNat) := by
    unfold signOf
    rw [BitVec.getLsbD, Nat.testBit_eq_decide_div_mod_eq, decide_eq_decide]
    omega
  rw [hs]
  unfold pack32 magOf
  simp
  split <;> omega

/-- Two patterns with the same sign and magnitude are equal. -/
theorem eq_of_parts {x y : F32} (h1 : magOf x = magOf y) (h2 : signOf x = signOf y) : x = y := by
  rw [← pack32_parts x, ← pack32_parts y, h1, h2]

theorem fneg_parts (x : F32) : magOf (fneg x) = magOf x ∧ signOf (fneg x) = !signOf x :=
  ⟨magOf_pack32 _ _ (magOf_lt _), signOf_pack32 _ _ (magOf_lt _)⟩

/-! ### Special values -/

theorem unpack32_nan {x : F32} (h : isNaN x = true) : unpack32 x = .nan := by
  unfold isNaN at h
  unfold unpack32
  simp at h
  simp [h]

theorem unpack32_inf {x : F32} (h : magOf x = inf32) : unpack32 x = .inf (signOf x) := by
  unfold unpack32
  simp [h]

theorem unpack32_zero {x : F32} (h : magOf x = 0) : unpack32 x = .fin (signOf x) 0 (-149) := by
  unfold unpack32
  simp [h, inf32]

theorem isNaN_qNaN : isNaN qNaN = true := by decide

theorem magOf_someNaN (n : Nat) : inf32 < magOf (someNaN n) := by
  unfold someNaN
  have h : (Config.freeNaN n).toNat < 2 ^ 24 := (Config.freeNaN n).isLt
  generalize (Config.freeNaN n).toNat = d at *
  simp [magOf, pack32, inf32]
  split <;> split <;> omega

/-- A free NaN takes the place of a NaN, and of nothing else. -/
theorem freeIfNaN_cases (n : Nat) (x : F32) :
    (isNaN x = false ∧ freeIfNaN n x = x) ∨ (isNaN x = true ∧ isNaN (freeIfNaN n x) = true) := by
  unfold freeIfNaN
  cases h : isNaN x
  · exact Or.inl ⟨rfl, rfl⟩
  · refine Or.inr ⟨rfl, ?_⟩
    simpa [isNaN] using magOf_someNaN n

/-! ### The angle function's magnitudes -/

theorem runningMax_pos (raw : Nat → Nat) (n : Nat) : 1 ≤ runningMax raw n := by
  induction n with
  | zero => exact Nat.le_refl _
  | succ k ih => exact Nat.le_trans ih (Nat.le_max_left _ _)

theorem runningMax_mono (raw : Nat → Nat) {a b : Nat} (h : a ≤ b) : runningMax raw a ≤ runningMax raw b := by
  induction h with
  | refl => exact Nat.le_refl _
  | step _ ih => exact Nat.le_trans ih (Nat.le_max_left _ _)

theorem atanMag_zero (raw : Nat → Nat) : atanMag raw 0 = 0 := rfl

theorem atanMag_pos (raw : Nat → Nat) {m : Nat} (h : m ≠ 0) : 0 < atanMag raw m := by
  have := runningMax_pos raw m
  simp only [atanMag, h, if_false, inf32]
  omega

theorem atanMag_lt (raw : Nat → Nat) (m : Nat) : atanMag raw m < inf32 := by
  unfold atanMag
  split
  · decide
  · exact Nat.lt_of_le_of_lt (Nat.min_le_right _ _) (by decide)

theorem atanMag_mono (raw : Nat → Nat) {a b : Nat} (h : a ≤ b) : atanMag raw a ≤ atanMag raw b := by
  by_cases ha : a = 0
  · rw [ha, atanMag_zero]
    exact Nat.zero_le _
  · have hb : b ≠ 0 := by omega
    have := runningMax_mono raw h
    simp only [atanMag, ha, hb, if_false]
    omega

/-- Off the NaNs, `atanDeg` keeps the sign and maps the magnitude. -/
theorem atanDegOf_parts (raw : Nat → Nat) (x : F32) (h : isNaN x = false) :
    magOf (atanDegOf raw x) = atanMag raw (magOf x) ∧ signOf (atanDegOf raw x) = signOf x ∧
      isNaN (atanDegOf raw x) = false := by
  have h1 := atanMag_lt raw (magOf x)
  have h2 : atanMag raw (magOf x) < 2 ^ 31 := Nat.lt_trans h1 (by decide)
  have he : atanDegOf raw x = pack32 (signOf x) (atanMag raw (magOf x)) := by simp [atanDegOf, h]
  rw [he]
  refine ⟨magOf_pack32 _ _ h2, signOf_pack32 _ _ h2, ?_⟩
  unfold isNaN
  rw [magOf_pack32 _ _ h2]
  simp only [decide_eq_false_iff_not]
  omega

end Sys2Proof.Machine
end

