-- ==== Sys2Proof/Laws/Master.lean ====
section
/-!
SUPPORT. What a master command does to the master and to the trace: one lemma for each part of `complete(c)`
(40_bus_master R105), what no part changes, and the two ways into a completion.
-/

namespace Sys2Proof.Machine

/-! ### The three parts -/

/-- No START flag: the first part does nothing. -/
theorem startPart_skip (a : BusAnswer) (c : BitVec 4) (m : Master) (h : mcmdStartBit c = false) :
    startPart a c m = { m := m, events := [], more := true, lost := false } := by
  simp [startPart, h]

/-- A START that loses arbitration. -/
theorem startPart_lost (a : BusAnswer) (c : BitVec 4) (m : Master) (h : mcmdStartBit c = true)
    (hl : a.lostBeforeAddr = true) :
    startPart a c m = { m := m.afterLoss, events := [startEvent m, .lost], more := false, lost := true } := by
  simp [startPart, h, hl, lose, startEvent, Master.afterLoss]

/-- A START whose address byte is not acknowledged. -/
theorem startPart_nack (a : BusAnswer) (c : BitVec 4) (m : Master) (h : mcmdStartBit c = true)
    (hl : a.lostBeforeAddr = false) (hk : a.addrAck = .nack) :
    startPart a c m =
      { m := { m.addressed with adrack := true, error := true }
        events := [startEvent m, addrEvent m .nack]
        more := false
        lost := false } := by
  simp [startPart, h, hl, hk, startEvent, addrEvent, Master.addressed]

/-- A START whose address byte is acknowledged. -/
theorem startPart_ack (a : BusAnswer) (c : BitVec 4) (m : Master) (h : mcmdStartBit c = true)
    (hl : a.lostBeforeAddr = false) (hk : a.addrAck = .ack) :
    startPart a c m = { m := m.addressed, events := [startEvent m, addrEvent m .ack], more := true, lost := false } := by
  simp [startPart, h, hl, hk, startEvent, addrEvent, Master.addressed]

/-- No RUN flag, or nothing left to run. -/
theorem runPart_skip (a : BusAnswer) (c : BitVec 4) (p : Progress) (h : mcmdRunBit c = false ∨ p.more = false) :
    runPart a c p = p := by
  rcases h with h | h <;> simp [runPart, h]

/-- A data byte lost to arbitration. -/
theorem runPart_lost (a : BusAnswer) (c : BitVec 4) (p : Progress) (h : mcmdRunBit c = true) (hm : p.more = true)
    (hl : a.lostBeforeData = true) :
    runPart a c p = { m := p.m.afterLoss, events := p.events ++ [.lost], more := false, lost := true } := by
  simp [runPart, h, hm, hl, lose, Master.afterLoss]

/-- A data byte sent or received. -/
theorem runPart_byte (a : BusAnswer) (c : BitVec 4) (p : Progress) (h : mcmdRunBit c = true) (hm : p.more = true)
    (hl : a.lostBeforeData = false) :
    runPart a c p =
      { p with
        m := p.m.afterByte a
        events := p.events ++ [byteEvent p.m a (if mcmdAckBit c then .ack else .nack)] } := by
  obtain ⟨m, events, more, lost⟩ := p
  cases hd : m.dir <;> cases hk : a.txAck <;>
    simp_all [runPart, Master.afterByte, byteEvent]

/-- No STOP flag, arbitration lost, or a STOP alone on a bus that is not held. -/
theorem stopPart_skip (c : BitVec 4) (p : Progress)
    (h : mcmdStopBit c = false ∨ p.lost = true ∨ (mcmdRunBit c = false ∧ p.m.held = false)) : stopPart c p = p := by
  rcases h with h | h | ⟨h, h'⟩ <;> simp [stopPart, *]

/-- A STOP. -/
theorem stopPart_stop (c : BitVec 4) (p : Progress) (h : mcmdStopBit c = true) (hl : p.lost = false)
    (hr : mcmdRunBit c = true ∨ p.m.held = true) :
    stopPart c p = { p with m := { p.m with held := false }, events := p.events ++ [.p] } := by
  rcases hr with hr | hr <;> simp [stopPart, *]

/-! ### What no part changes -/

theorem startPart_frame (a : BusAnswer) (c : BitVec 4) (m : Master) :
    (startPart a c m).m.en = m.en ∧ (startPart a c m).m.tpr = m.tpr ∧ (startPart a c m).m.sa = m.sa ∧
    (startPart a c m).m.cmd = m.cmd ∧ (startPart a c m).m.busy = m.busy := by
  unfold startPart lose
  cases mcmdStartBit c
  · simp
  · cases a.lostBeforeAddr
    · cases a.addrAck <;> simp
    · simp

theorem runPart_frame (a : BusAnswer) (c : BitVec 4) (p : Progress) :
    (runPart a c p).m.en = p.m.en ∧ (runPart a c p).m.tpr = p.m.tpr ∧ (runPart a c p).m.sa = p.m.sa ∧
    (runPart a c p).m.cmd = p.m.cmd ∧ (runPart a c p).m.busy = p.m.busy := by
  unfold runPart lose
  cases mcmdRunBit c && p.more
  · simp
  · cases a.lostBeforeData
    · cases p.m.dir
      · cases a.txAck <;> simp
      · simp
    · simp

theorem stopPart_frame (c : BitVec 4) (p : Progress) :
    (stopPart c p).m.en = p.m.en ∧ (stopPart c p).m.tpr = p.m.tpr ∧ (stopPart c p).m.sa = p.m.sa ∧
    (stopPart c p).m.cmd = p.m.cmd ∧ (stopPart c p).m.busy = p.m.busy := by
  unfold stopPart
  split <;> simp

/-- The parts of a command leave the master's enable, divisor, address byte, command and BUSY as they are. -/
theorem masterProgress_frame (a : BusAnswer) (c : BitVec 4) (m : Master) :
    (masterProgress a c m).m.en = m.en ∧ (masterProgress a c m).m.tpr = m.tpr ∧ (masterProgress a c m).m.sa = m.sa ∧
    (masterProgress a c m).m.cmd = m.cmd ∧ (masterProgress a c m).m.busy = m.busy := by
  have h1 := startPart_frame a c m
  have h2 := runPart_frame a c (startPart a c m)
  have h3 := stopPart_frame c (runPart a c (startPart a c m))
  unfold masterProgress
  refine ⟨?_, ?_, ?_, ?_, ?_⟩ <;> simp [h1, h2, h3]

/-- A completion clears BUSY and leaves the host registers, the sequencer and all that is not the bus as they are. -/
theorem masterStep_frame (c : BitVec 4) (s : State) :
    (masterStep c s).m.busy = false ∧ (masterStep c s).m.cmd = s.m.cmd ∧ (masterStep c s).m.en = s.m.en ∧
    (masterStep c s).regs = s.regs ∧ (masterStep c s).seq = s.seq ∧ (masterStep c s).fault = s.fault ∧
    (masterStep c s).host = s.host ∧ (masterStep c s).values = s.values ∧ (masterStep c s).sched = s.sched ∧
    (masterStep c s).platform = s.platform ∧ (masterStep c s).past = s.past ∧ (masterStep c s).waited = s.waited := by
  have h := masterProgress_frame (busAnswer c s) c s.m
  exact ⟨rfl, h.2.2.2.1, h.1, rfl, rfl, rfl, rfl, rfl, rfl, rfl, rfl, rfl⟩

/-! ### The ways into a completion -/

/-- A completion in the terms of the statements. -/
theorem masterStep_completed (c : BitVec 4) (s : State) :
    masterStep c s =
      s.completed (busAnswer c s) (masterProgress (busAnswer c s) c s.m).m
        (masterProgress (busAnswer c s) c s.m).events := rfl

/-- A master command that the master is working on: the completion. -/
theorem runMcmd_working (c : BitVec 4) (s : State) (hb : s.m.busy = true) (hc : s.m.cmd = c) :
    runMcmd c s =
      .next
        (s.completed (s.env.answer s.draws s.history s.m c)
          (masterProgress (s.env.answer s.draws s.history s.m c) c s.m).m
          (masterProgress (s.env.answer s.draws s.history s.m c) c s.m).events) := by
  simp only [runMcmd, hb, hc, if_true]
  rfl

/-- A master command on an idle master whose issue passes the checks of R103: issue and completion. -/
theorem runMcmd_idle (c : BitVec 4) (s : State) (hb : s.m.busy = false) (hen : s.m.en = true)
    (hl : mcmdLegal c = true) (hh : mcmdNeedsHeld c = true → s.m.held = true) :
    runMcmd c s =
      .next
        (s.completed (s.env.answer s.draws s.history (s.m.working c) c)
          (masterProgress (s.env.answer s.draws s.history (s.m.working c) c) c (s.m.working c)).m
          (masterProgress (s.env.answer s.draws s.history (s.m.working c) c) c (s.m.working c)).events) := by
  simp only [runMcmd, hb, Bool.false_eq_true, if_false, issue_ok hen hl hh]
  rfl

end Sys2Proof.Machine
end

