-- ==== Sys2Proof/Laws/Memory.lean ====
section
/-!
SUPPORT. Every memory operation keeps the canonical form, and so does the reference peripheral.
-/

namespace Sys2Proof.Machine

theorem Memory.wfAbove_mono (mem : Memory) {lo lo' : Nat} (h : lo' ≤ lo) (hw : mem.wfAbove lo = true) :
    mem.wfAbove lo' = true := by
  cases mem with
  | nil => rfl
  | cons c rest =>
    obtain ⟨b, v⟩ := c
    simp only [Memory.wfAbove, Bool.and_eq_true, decide_eq_true_eq] at hw ⊢
    exact ⟨⟨by omega, hw.1.2⟩, hw.2⟩

theorem Memory.dropEntry_wfAbove (mem : Memory) (a lo : Nat) (hw : mem.wfAbove lo = true) :
    (mem.dropEntry a).wfAbove lo = true := by
  induction mem generalizing lo with
  | nil => rfl
  | cons c rest ih =>
    obtain ⟨b, v⟩ := c
    simp only [Memory.wfAbove, Bool.and_eq_true, decide_eq_true_eq] at hw
    unfold Memory.dropEntry
    split
    · exact Memory.wfAbove_mono rest (by omega) hw.2
    · simp only [Memory.wfAbove, Bool.and_eq_true, decide_eq_true_eq]
      exact ⟨hw.1, ih _ hw.2⟩

theorem Memory.putEntry_wfAbove (mem : Memory) (a lo : Nat) (v : Byte) (hv : v ≠ Memory.unlisted) (hlo : lo ≤ a)
    (hw : mem.wfAbove lo = true) : (mem.putEntry a v).wfAbove lo = true := by
  have hv' : (v != Memory.unlisted) = true := by simpa using hv
  induction mem generalizing lo with
  | nil => simp [Memory.putEntry, Memory.wfAbove, hlo, hv]
  | cons c rest ih =>
    obtain ⟨b, w⟩ := c
    simp only [Memory.wfAbove, Bool.and_eq_true, decide_eq_true_eq] at hw
    unfold Memory.putEntry
    split
    · rename_i hab
      simp only [Memory.wfAbove, Bool.and_eq_true, decide_eq_true_eq]
      exact ⟨⟨hlo, hv'⟩, ⟨by omega, hw.1.2⟩, hw.2⟩
    · split
      · rename_i hab
        subst hab
        simp only [Memory.wfAbove, Bool.and_eq_true, decide_eq_true_eq]
        exact ⟨⟨hlo, hv'⟩, hw.2⟩
      · simp only [Memory.wfAbove, Bool.and_eq_true, decide_eq_true_eq]
        exact ⟨hw.1, ih _ (by omega) hw.2⟩

/-- A write keeps the canonical form. -/
theorem Memory.write_wf (mem : Memory) (a : Nat) (v : Byte) (hw : mem.wf = true) : (mem.write a v).wf = true := by
  unfold Memory.write
  split
  · exact Memory.dropEntry_wfAbove mem a 0 hw
  · rename_i hv
    exact Memory.putEntry_wfAbove mem a 0 v hv (Nat.zero_le _) hw

theorem Memory.putHiLo_wf (mem : Memory) (r v : HiLo) (hw : mem.wf = true) : (mem.putHiLo r v).wf = true :=
  Memory.write_wf _ _ _ (Memory.write_wf _ _ _ hw)

theorem Memory.putAxes_wf (mem : Memory) (r v : Axes HiLo) (hw : mem.wf = true) : (mem.putAxes r v).wf = true :=
  Memory.putHiLo_wf _ _ _ (Memory.putHiLo_wf _ _ _ (Memory.putHiLo_wf _ _ _ hw))

theorem RefPeripheral.relatchPoint_wf (p : RefPeripheral) (n : Nat) (h : History) (hw : p.mem.wf = true) :
    (p.relatchPoint n h).mem.wf = true := by
  unfold RefPeripheral.relatchPoint
  simp only
  split
  · exact Memory.putAxes_wf _ _ _ (Memory.putAxes_wf _ _ _ hw)
  · exact hw

theorem RefPeripheral.onTx_wf (p : RefPeripheral) (b : Byte) (k : Ack) (hw : p.mem.wf = true) :
    (p.onTx b k).mem.wf = true := by
  unfold RefPeripheral.onTx
  cases k with
  | nack => exact hw
  | ack =>
    simp only
    split
    · exact hw
    · exact Memory.write_wf _ _ _ hw

/-- One wire event keeps the canonical form of the register file. -/
theorem RefPeripheral.onEvent_wf (p : RefPeripheral) (e : WireEvent) (hw : p.mem.wf = true) :
    (p.onEvent e).mem.wf = true := by
  cases e with
  | addr a7 rw k =>
    simp only [RefPeripheral.onEvent, RefPeripheral.onAddr]
    split
    · split <;> exact hw
    · exact hw
  | tx b k =>
    simp only [RefPeripheral.onEvent]
    split
    · exact RefPeripheral.onTx_wf p b k hw
    · exact hw
  | rx b k =>
    simp only [RefPeripheral.onEvent]
    split <;> exact hw
  | p => exact hw
  | s => exact hw
  | sr => exact hw
  | lost => exact hw

/-- Any list of wire events keeps the canonical form of the register file. -/
theorem RefPeripheral.foldl_onEvent_wf (events : List WireEvent) (p : RefPeripheral)
    (hw : p.mem.wf = true) : (events.foldl RefPeripheral.onEvent p).mem.wf = true := by
  induction events generalizing p with
  | nil => exact hw
  | cons e rest ih => exact ih _ (RefPeripheral.onEvent_wf p e hw)

end Sys2Proof.Machine
end

