-- ==== Sys2Proof/Laws/PerInstr.lean ====
section
/-!
SUPPORT. One lemma per instruction about its encoding (30_encoding R83, R87): the encoded object is a legal one of the
opcode table, and the decoder reads the instruction back from the table's own bits.
-/

namespace Sys2Proof.Laws

/-- What every instruction's encoding satisfies. -/
def EncodedWord.Statement (i : Instr) : Prop :=
  i.wf = true ∧
    match encode i with
    | .cmd w => cmdRsvd w = 0 ∧ wfCmdWord w = true ∧ decodeTableWord 32 w.toNat = some i
    | .mcmd c => wfMcmd c = true ∧ decodeTableWord 8 c.toNat = some i

theorem EncodedWord.init : EncodedWord.Statement .init := ⟨rfl, rfl, rfl, rfl⟩

theorem EncodedWord.readReg : EncodedWord.Statement .readReg := ⟨rfl, rfl, rfl, rfl⟩

theorem EncodedWord.writeReg : EncodedWord.Statement .writeReg := ⟨rfl, rfl, rfl, rfl⟩

theorem EncodedWord.burstRead : EncodedWord.Statement .burstRead := ⟨rfl, rfl, rfl, rfl⟩

theorem EncodedWord.burstWrite : EncodedWord.Statement .burstWrite := ⟨rfl, rfl, rfl, rfl⟩

theorem EncodedWord.readAccel : EncodedWord.Statement .readAccel := ⟨rfl, rfl, rfl, rfl⟩

theorem EncodedWord.readGyro : EncodedWord.Statement .readGyro := ⟨rfl, rfl, rfl, rfl⟩

theorem EncodedWord.scaleAccel : EncodedWord.Statement .scaleAccel := ⟨rfl, rfl, rfl, rfl⟩

theorem EncodedWord.scaleGyro : EncodedWord.Statement .scaleGyro := ⟨rfl, rfl, rfl, rfl⟩

theorem EncodedWord.estimate : EncodedWord.Statement .estimate := ⟨rfl, rfl, rfl, rfl⟩

theorem EncodedWord.mcmdRun : EncodedWord.Statement .mcmdRun := ⟨rfl, rfl, rfl⟩

theorem EncodedWord.mcmdStartRun : EncodedWord.Statement .mcmdStartRun := ⟨rfl, rfl, rfl⟩

theorem EncodedWord.mcmdStop : EncodedWord.Statement .mcmdStop := ⟨rfl, rfl, rfl⟩

theorem EncodedWord.mcmdRunStop : EncodedWord.Statement .mcmdRunStop := ⟨rfl, rfl, rfl⟩

theorem EncodedWord.mcmdStartRunStop : EncodedWord.Statement .mcmdStartRunStop := ⟨rfl, rfl, rfl⟩

theorem EncodedWord.mcmdRunAck : EncodedWord.Statement .mcmdRunAck := ⟨rfl, rfl, rfl⟩

theorem EncodedWord.mcmdStartRunAck : EncodedWord.Statement .mcmdStartRunAck := ⟨rfl, rfl, rfl⟩

end Sys2Proof.Laws
end

