-- ==== Sys2Proof/Laws/Step.lean ====
section
/-!
SUPPORT. What one step of the machine can do, said once: which agent moves, and for each agent what its move does.
-/

namespace Sys2Proof.Machine

/-- The instruction a CMD word decodes to is a host command. -/
theorem decodeCmd_hostCmd {w : Word} {i : Instr} (h : decodeCmd w = .ok i) : ∃ op : HostCmd, i = op.instr := by
  unfold decodeCmd at h
  split at h
  · cases h
  · have key : ∀ (o : BitVec 4) (j : Instr), decodeOp o = some j → ∃ op : HostCmd, j = op.instr := by
      intro o j hj
      unfold decodeOp at hj
      split at hj <;> cases hj
      · exact ⟨.init, rfl⟩
      · exact ⟨.readReg, rfl⟩
      · exact ⟨.writeReg, rfl⟩
      · exact ⟨.burstRead, rfl⟩
      · exact ⟨.burstWrite, rfl⟩
      · exact ⟨.readAccel, rfl⟩
      · exact ⟨.readGyro, rfl⟩
      · exact ⟨.scaleAccel, rfl⟩
      · exact ⟨.scaleGyro, rfl⟩
      · exact ⟨.estimate, rfl⟩
    split at h
    · rename_i j hj
      cases h
      exact key _ _ hj
    · cases h

/-- The instruction an MCMD decodes to runs as that master command. -/
theorem decodeMcmd_exec {c : BitVec 4} {i : Instr} (h : decodeMcmd c = .ok i) (s : State) : exec i s = runMcmd c s := by
  have hc (k : Nat) (hk : c.toNat = k) : c = BitVec.ofNat 4 k := by
    apply BitVec.eq_of_toNat_eq
    rw [hk, BitVec.toNat_ofNat, Nat.mod_eq_of_lt]
    have := c.isLt
    omega
  unfold decodeMcmd at h
  split at h <;> cases h <;> rename_i hk <;> rw [hc _ hk] <;> rfl

/-- A write that goes on: one of R63's cases. -/
theorem memWrite_next {off width : Nat} {v : Word} {s t : State} (h : memWrite exec off width v s = .next t) :
    admitted off width = true ∧
    ((s.regs.status.busy = true ∧ (off = 0 ∨ ∃ r, writeRw s.regs off v = some r) ∧ t = s.overrun) ∨
      (s.regs.status.busy = false ∧ off = 0 ∧
        ((∃ op : HostCmd, decodeCmd v = .ok op.instr ∧ exec op.instr s = .next t) ∨ t = s.rejecting)) ∨
      (s.regs.status.busy = false ∧ ∃ r, writeRw s.regs off v = some r ∧ t = { s with regs := r }) ∨
      (off ≠ 0 ∧ writeRw s.regs off v = none ∧ t = s)) := by
  unfold memWrite at h
  cases ha : admitted off width
  · simp [ha] at h
  · refine ⟨rfl, ?_⟩
    simp only [ha, Bool.not_true, Bool.false_eq_true, if_false] at h
    cases hb : s.regs.status.busy
    · by_cases h0 : off = 0
      · right; left
        refine ⟨rfl, h0, ?_⟩
        simp only [h0, if_true, writeCmd, hb, Bool.false_eq_true, if_false] at h
        split at h
        · rename_i i hi
          obtain ⟨op, rfl⟩ := decodeCmd_hostCmd hi
          exact Or.inl ⟨op, hi, h⟩
        · cases h; exact Or.inr rfl
      · simp only [h0, if_false] at h
        split at h
        · rename_i hw; cases h
          exact Or.inr (Or.inr (Or.inr ⟨h0, hw, rfl⟩))
        · rename_i r hw
          simp only [hb, Bool.false_eq_true, if_false] at h
          cases h
          exact Or.inr (Or.inr (Or.inl ⟨rfl, r, hw, rfl⟩))
    · by_cases h0 : off = 0
      · left
        simp only [h0, if_true, writeCmd, hb] at h
        cases h
        exact ⟨rfl, Or.inl h0, rfl⟩
      · simp only [h0, if_false] at h
        split at h
        · rename_i hw; cases h
          exact Or.inr (Or.inr (Or.inr ⟨h0, hw, rfl⟩))
        · rename_i r hw
          simp only [hb, if_true] at h
          cases h
          exact Or.inl ⟨rfl, Or.inr ⟨r, hw⟩, rfl⟩

/-- The host's move that goes on: nothing, a write, a read, or a poll. -/
theorem hostMove_next {s t : State} (h : hostMove exec s = .next t) :
    t = s ∨
    (∃ off width v rest, s.host = .write off width v :: rest ∧
      memWrite exec off width v { s with host := rest } = .next t) ∨
    (∃ off width rest, s.host = .read off width :: rest ∧
      t = { s with host := rest, values := s.values ++ [readReg s.regs off] }) ∨
    (∃ rest, s.host = .poll :: rest ∧ t = { s with host := rest }) := by
  unfold hostMove at h
  split at h
  · cases h; exact Or.inl rfl
  · rename_i off width v rest hh
    exact Or.inr (Or.inl ⟨off, width, v, rest, hh, h⟩)
  · rename_i off width rest hh
    unfold memRead at h
    split at h
    · cases h
    · cases h
      exact Or.inr (Or.inr (Or.inl ⟨off, width, rest, hh, rfl⟩))
  · rename_i rest hh
    split at h
    · cases h; exact Or.inr (Or.inr (Or.inr ⟨rest, hh, rfl⟩))
    · cases h; exact Or.inl rfl

/-- A step that goes on: no fault is recorded, and one agent moves. -/
theorem step_next {s t : State} (h : step s = .next t) :
    s.fault = none ∧
    ((nextAgent s = .host ∧ hostMove exec (scheduled s) = .next t) ∨
      (nextAgent s = .sequencer ∧
        ((∃ op, s.seq.op = some op ∧ s.regs.status.busy = true ∧ exec op.instr (scheduled s) = .next t) ∨
          t = scheduled s)) ∨
      (nextAgent s = .master ∧
        ((s.m.busy = true ∧ runMcmd s.m.cmd (scheduled s) = .next t) ∨ t = scheduled s)) ∨
      (nextAgent s = .environment ∧ t = environmentMove (scheduled s)) ∨
      (nextAgent s = .reset ∧ t = applyReset (scheduled s))) := by
  have hs := scheduled_frame s
  cases hf : s.fault with
  | some r => rw [step, stepWith_of_fault _ _ _ hf] at h; cases h
  | none =>
    refine ⟨rfl, ?_⟩
    rw [step, stepWith_of_no_fault _ _ hf] at h
    cases hn : nextAgent s <;> simp only [hn, agentMove] at h
    · exact Or.inl ⟨rfl, h⟩
    · refine Or.inr (Or.inl ⟨rfl, ?_⟩)
      unfold sequencerMove at h
      simp only [hs.1, hs.2.2.1] at h
      split at h
      · rename_i op ho
        split at h
        · rename_i hb
          exact Or.inl ⟨op, ho, hb, h⟩
        · cases h; exact Or.inr rfl
      · cases h; exact Or.inr rfl
    · refine Or.inr (Or.inr (Or.inl ⟨rfl, ?_⟩))
      unfold masterMove at h
      simp only [hs.2.1] at h
      split at h
      · rename_i hb
        split at h
        · rename_i i hi
          rw [decodeMcmd_exec hi] at h
          exact Or.inl ⟨hb, h⟩
        · cases h
      · cases h; exact Or.inr rfl
    · cases h
      exact Or.inr (Or.inr (Or.inr (Or.inl ⟨rfl, rfl⟩)))
    · cases h
      exact Or.inr (Or.inr (Or.inr (Or.inr ⟨rfl, rfl⟩)))

/-- What a step other than a reset does to the host registers: nothing; OVR; BADCMD; acceptance; the store of an RW
register; a command's DONE step; or the byte that BURST_READ stores. -/
theorem step_regs {s t : State} (h : step s = .next t) (hr : nextAgent s ≠ .reset) :
    t.regs = s.regs ∨
    (s.regs.status.busy = true ∧ (∃ off v, s.hostWrites off v ∧ (off = 0 ∨ rwOffset off = true)) ∧
      t.regs = { s.regs with status := { s.regs.status with ovr := true } }) ∨
    (s.regs.status.busy = false ∧ (∃ v, s.hostWrites 0 v) ∧
      t.regs = { s.regs with status := { s.regs.status with badCmd := true } }) ∨
    (s.regs.status.busy = false ∧
      (∃ op v, s.hostWrites 0 v ∧ decode (.cmd v) = .ok op.instr ∧ t.seq.op = some op) ∧
      t.regs = { s.regs with status := { s.regs.status with ovr := false, badCmd := false, busy := true } }) ∨
    (s.regs.status.busy = false ∧ ∃ off v, s.hostWrites off v ∧ writeRw s.regs off v = some t.regs) ∨
    (∃ op, nextAgent s = .sequencer ∧ s.seq.op = some op ∧ s.regs.status.busy = true ∧ s.seq.phase = .done ∧
      t.seq.op = none ∧ t.seq.phase = .idle ∧
      t.regs =
        { doneRegs op (scheduled s) with status := { (doneRegs op (scheduled s)).status with busy := false } }) ∨
    (nextAgent s = .sequencer ∧ s.seq.op = some .burstRead ∧
      (s.seq.phase = .startAddrR ∨ s.seq.phase = .recvByte) ∧ s.m.error = false ∧
      t.regs = { s.regs with buf := s.regs.buf.setIfInBounds s.seq.i.toNat s.m.dr }) := by
  have hs := scheduled_frame s
  have hsc := hs.1
  obtain ⟨hf, h⟩ := step_next h
  rcases h with ⟨hn, h⟩ | ⟨hn, h⟩ | ⟨hn, h⟩ | ⟨hn, h⟩ | ⟨hn, h⟩
  · rcases hostMove_next h with
      rfl | ⟨off, width, v, rest, hh, h'⟩ | ⟨off, width, rest, hh, rfl⟩ | ⟨rest, hh, rfl⟩
    · exact Or.inl hsc
    · obtain ⟨ha, hc'⟩ := memWrite_next h'
      clear h'
      have hw : width = 4 := by simp [admitted] at ha; exact ha.1.1
      subst hw
      rw [hs.2.2.2.2.2.2.1] at hh
      have hW : s.hostWrites off v := ⟨hn, rest, hh⟩
      have hrw : ∀ r, writeRw s.regs off v = some r → rwOffset off = true := by
        intro r hr; by_contra hc
        unfold writeRw at hr
        split at hr <;> simp [rwOffset] at hc hr
      rcases hc' with ⟨hb, ho, rfl⟩ | ⟨hb, h0, (⟨op, hd, he⟩ | rfl)⟩ | ⟨hb, r, hw, rfl⟩ | ⟨h0, hw, rfl⟩
      · right; left
        simp only [hsc] at hb ho
        refine ⟨hb, ⟨off, v, hW, ho.imp id (fun ⟨r, hr⟩ => hrw r hr)⟩, ?_⟩
        simp [State.overrun, hsc]
      · subst h0
        simp only [hsc] at hb
        rcases exec_idle_regs op (by simpa [hsc] using hb) he with rfl | ⟨h1, h2⟩
        · exact Or.inr (Or.inr (Or.inl ⟨hb, ⟨v, hW⟩, by simp [State.rejecting, hsc]⟩))
        · exact Or.inr (Or.inr (Or.inr (Or.inl ⟨hb, ⟨op, v, hW, hd, h1⟩, by rw [h2]; simp [hsc]⟩)))
      · subst h0
        simp only [hsc] at hb
        exact Or.inr (Or.inr (Or.inl ⟨hb, ⟨v, hW⟩, by simp [State.rejecting, hsc]⟩))
      · simp only [hsc] at hb hw
        exact Or.inr (Or.inr (Or.inr (Or.inr (Or.inl ⟨hb, off, v, hW, hw⟩))))
      · exact Or.inl hsc
    · exact Or.inl hsc
    · exact Or.inl hsc
  · rcases h with ⟨op, ho, hb, h⟩ | rfl
    · rcases exec_running_regs op (by rw [hsc]; exact hb) (by rw [hs.2.2.1]; exact ho) h with
        h' | ⟨h1, h2, h3, h4⟩ | ⟨rfl, h2, h3, h4⟩
      · left; rw [h', hsc]
      · right; right; right; right; right; left
        rw [hs.2.2.1] at h1
        exact ⟨op, hn, ho, hb, h1, h2, h3, h4⟩
      · right; right; right; right; right; right
        rw [hs.2.2.1] at h2 h4
        rw [hs.2.1] at h3 h4
        rw [hsc] at h4
        exact ⟨hn, ho, h2, h3, h4⟩
    · exact Or.inl hsc
  · rcases h with ⟨_, h⟩ | rfl
    · exact Or.inl ((runMcmd_regs h).trans hsc)
    · exact Or.inl hsc
  · subst h
    exact Or.inl ((environmentMove_frame _).1.trans hsc)
  · exact absurd hn hr

end Sys2Proof.Machine
end

