-- ==== Sys2Proof/Tests/AtanRef.lean ====
section
/-!
SUPPORT. The reference instance RI of `P_ATAN_DEG` (43_estimator R203), for the tests only: rnd32(rnd32(atan x) ⊗ K) with
K = 0x42652EE1. The arc tangent is summed in fixed point with 320 bits by Euler's series; that its rounding to binary32 is
correct is not proved, and no definition or statement of the model rests on it.
-/

namespace Sys2Proof.Tests

open Sys2Proof.Machine

/-- The number of fraction bits. -/
def atanBits : Nat := 320

/-- The terms of Euler's series from number `k` on: the `k`th is `term`, and each is 2k/(2k+1) · ratio of the one
before. -/
def atanSum (fuel k ratio term acc : Nat) : Nat :=
  match fuel with
  | 0 => acc
  | f + 1 =>
    let next := term * ratio / 2 ^ atanBits * (2 * k) / (2 * k + 1)
    atanSum f (k + 1) ratio next (acc + term)

/-- atan (num / den) in fixed point, for num ≤ den: first term y/(1+y²), ratio y²/(1+y²). -/
def atanUnit (num den : Nat) : Nat :=
  let sq := num * num + den * den
  atanSum 340 1 (num * num * 2 ^ atanBits / sq) (num * den * 2 ^ atanBits / sq) 0

/-- π/2 in fixed point. -/
def halfPi : Nat := 2 * atanUnit 1 1

/-- atan (num / den) in fixed point. -/
def atanFix (num den : Nat) : Nat := if num ≤ den then atanUnit num den else halfPi - atanUnit den num

/-- `atan` rounded to binary32. -/
def atan32 (x : F32) : F32 :=
  match unpack32 x with
  | .nan => qNaN
  | .inf neg => round32 neg halfPi (2 ^ atanBits)
  | .fin neg m e =>
    if m = 0 then x
    else if 0 ≤ e then round32 neg (atanFix (m * 2 ^ e.toNat) 1) (2 ^ atanBits)
    else round32 neg (atanFix m (2 ^ (-e).toNat)) (2 ^ atanBits)

/-- RI (R203). -/
def atanDegRI (x : F32) : F32 := fmul (atan32 x) 0x42652EE1

end Sys2Proof.Tests
end

