-- ==== Sys2Proof/Tests/Slice0.lean ====
section
/-!
SUPPORT. The model's own tests: ill-formed terms that the checks refuse, encodings written out bit by bit, single steps
with results from spec/95_test_vectors.md, and for every statement with hypotheses a state and operands that meet them.
-/

namespace Sys2Proof.Tests

open Sys2Proof.Machine

/-! ### States and helpers -/

/-- The next state of an outcome. -/
def after (r : Result) : Option State :=
  match r with
  | .next t => some t
  | .fault _ => none
  | .refused _ => none

/-- The fault of an outcome. -/
def faultOf (r : Result) : Option Fault :=
  match r with
  | .next _ => none
  | .fault f => some f
  | .refused _ => none

/-- Reset and INIT, with arguments set (the starting state of the vectors). -/
def ready : State :=
  { State.reset with
    regs :=
      { Regs.reset with
        status := { Regs.reset.status with initDone := true }
        sa := 0x68
        ra := 0x10
        wdata := 0x5A
        imuSa := 0x68 }
    m := { Master.reset with en := true } }

/-- The bus answers everything well, and sends the byte `b`. -/
def good (b : Byte) : BusAnswer :=
  { lostBeforeAddr := false, addrAck := .ack, lostBeforeData := false, txAck := .ack, rxByte := b, otherMaster := false }

/-- The state with these answers laid down. -/
def withScript (l : List BusAnswer) (s : State) : State := { s with env := .oracle l }

/-- The state with another master. -/
def withMaster (f : Master → Master) (s : State) : State := { s with m := f s.m }

/-- The state with the command `op` running in phase `p`, with index `i` of `n` bytes. -/
def running (op : HostCmd) (p : Phase) (issued : Bool) (i n : Byte) (s : State) : State :=
  { s with
    regs := { s.regs with status := { s.regs.status with busy := true } }
    seq :=
      { s.seq with
        op := some op, phase := p, issued := issued, i := i, n := n, sa := s.regs.sa, ra := s.regs.ra,
        wd := s.regs.wdata } }

/-- The bus held, with address byte, data byte and direction. -/
def held (sa dr : Byte) (dir : Bool) (s : State) : State :=
  withMaster (fun m => { m with held := true, sa := sa, dr := dr, dir := dir }) s

/-- The host about to do these actions, and moving next. -/
def hostNext (l : List HostAction) (s : State) : State := { s with host := l, sched := [.host] }

/-- The reference peripheral of the vectors: address 0x68. -/
def rp (mem : Memory) (nackAt : Option Nat) : RefPeripheral :=
  { addr := 0x68, mem := mem, ptr := 0, wc := 0, addressed := .no, nackAt := nackAt, relatch := false, samples := [] }

/-! ### Ill-formed terms (30_encoding R84, R87; 20_memory R62) -/

theorem test_wf_rsvd_refuses : wfRsvd 0x00000011 = false := by decide

theorem test_wf_op_refuses_zero : wfOp 0x00000000 = false := by decide

theorem test_wf_op_refuses_above : wfOp 0x0000000B = false := by decide

theorem test_wf_cmd_word_refuses : wfCmdWord 0xFFFFFFF1 = false := by decide

theorem test_wf_mcmd_refuses : wfMcmd 0x6 = false := by decide

theorem test_wf_needs_held_refuses : wfNeedsHeld 0xB = false := by decide

theorem test_wf_access_refuses_width : wfAccess 0x08 1 = false := by decide

theorem test_wf_access_refuses_misaligned : wfAccess 0x06 4 = false := by decide

theorem test_wf_access_refuses_outside : wfAccess 0x100 4 = false := by decide

theorem test_memory_wf_refuses_order : Memory.wf [(5, 1), (4, 1)] = false := by decide

theorem test_memory_wf_refuses_zero_entry : Memory.wf [(5, 0)] = false := by decide

/-! ### Words written out from the tables of 30_encoding R83 and R87 -/

theorem test_word_init : decodeCmd 0b00000000000000000000000000000001#32 = .ok .init := by decide

theorem test_word_read_reg : decodeCmd 0b00000000000000000000000000000010#32 = .ok .readReg := by decide

theorem test_word_write_reg : decodeCmd 0b00000000000000000000000000000011#32 = .ok .writeReg := by decide

theorem test_word_burst_read : decodeCmd 0b00000000000000000000000000000100#32 = .ok .burstRead := by decide

theorem test_word_burst_write : decodeCmd 0b00000000000000000000000000000101#32 = .ok .burstWrite := by decide

theorem test_word_read_accel : decodeCmd 0b00000000000000000000000000000110#32 = .ok .readAccel := by decide

theorem test_word_read_gyro : decodeCmd 0b00000000000000000000000000000111#32 = .ok .readGyro := by decide

theorem test_word_scale_accel : decodeCmd 0b00000000000000000000000000001000#32 = .ok .scaleAccel := by decide

theorem test_word_scale_gyro : decodeCmd 0b00000000000000000000000000001001#32 = .ok .scaleGyro := by decide

theorem test_word_estimate : decodeCmd 0b00000000000000000000000000001010#32 = .ok .estimate := by decide

theorem test_word_mcmd_run : decodeMcmd 0b0001#4 = .ok .mcmdRun := by decide

theorem test_word_mcmd_start_run : decodeMcmd 0b0011#4 = .ok .mcmdStartRun := by decide

theorem test_word_mcmd_stop : decodeMcmd 0b0100#4 = .ok .mcmdStop := by decide

theorem test_word_mcmd_run_stop : decodeMcmd 0b0101#4 = .ok .mcmdRunStop := by decide

theorem test_word_mcmd_start_run_stop : decodeMcmd 0b0111#4 = .ok .mcmdStartRunStop := by decide

theorem test_word_mcmd_run_ack : decodeMcmd 0b1001#4 = .ok .mcmdRunAck := by decide

theorem test_word_mcmd_start_run_ack : decodeMcmd 0b1011#4 = .ok .mcmdStartRunAck := by decide

theorem test_word_reserved_op : decodeCmd 0x0000000F = .error .reservedOp := by decide

theorem test_word_reserved_mcmd : decodeMcmd 0b1101#4 = .error .reservedMcmd := by decide

/-- 30_encoding R88's example values: 0x68 for a write and for a read. -/
theorem test_address_byte : addrByte 0x68 false = 0xD0 ∧ addrByte 0x68 true = 0xD1 := by decide

/-- The table's own bits, in both sizes. -/
theorem test_table_words : decodeTableWord 32 0xA = some .estimate ∧ decodeTableWord 8 0xB = some .mcmdStartRunAck ∧
    decodeTableWord 8 0x10 = none := by decide

/-! ### Host interface (95_test_vectors 2.1) -/

/-- HI3. -/
theorem test_hi3_reserved_op :
    (after (step (hostNext [actW 0x00 0x0] State.reset))).map (fun t => t.regs.status.word) = some 0x00000008 := by
  decide

/-- HI6 and HI7: COUNT = 17 is rejected, COUNT = 16 accepted. -/
theorem test_hi6_count_17 :
    (after (exec .burstRead { ready with regs := { ready.regs with count := 17 } })).map
      (fun t => t.regs.status.word) = some 0x0000000A := by decide

theorem test_hi7_count_16 :
    (after (exec .burstRead { ready with regs := { ready.regs with count := 16 } })).map
      (fun t => t.regs.status.word) = some 0x00000003 := by decide

/-- HI9. -/
theorem test_hi9_uninit :
    faultOf (step (hostNext [actCmd .readReg] State.reset)) = some (.uninitUse 0x2) := by decide

/-- HI11. -/
theorem test_hi11_write_while_busy :
    (after (step (hostNext [actW 0x08 0x11] (running .readReg .startAddrW false 0 0 ready)))).map
      (fun t => (t.regs.sa, t.regs.status.word)) = some (0x68, 0x00000007) := by decide

/-- HI17: a write to YAW while BUSY is ignored, OVR unchanged. -/
theorem test_hi17_yaw_is_read_only :
    (after (step (hostNext [actW 0x78 0x1] (running .readReg .startAddrW false 0 0 ready)))).map
      (fun t => (t.regs.yaw, t.regs.status.ovr)) = some (0, false) := by decide

/-- HI20. -/
theorem test_hi20_raw_sign_extends :
    (writeRw Regs.reset 0x30 0x00018000).map (fun r => readReg r 0x30) = some 0xFFFF8000 := by decide

/-- HI22. -/
theorem test_hi22_buf_little_endian :
    (writeRw Regs.reset 0x80 0x44332211).map (fun r => [bufByte r 0, bufByte r 1, bufByte r 2, bufByte r 3]) =
      some [0x11, 0x22, 0x33, 0x44] := by decide

/-- HI23 and HI24. -/
theorem test_hi23_byte_write :
    faultOf (step (hostNext [.write 0x08 1 0] ready)) = some (.hostAccess 0x08 1) := by decide

theorem test_hi24_misaligned_read :
    faultOf (step (hostNext [.read 0x06 4] ready)) = some (.hostAccess 0x06 4) := by decide

/-! ### Master commands (95_test_vectors 2.2) -/

/-- The trace, `m.STAT`, `m.HELD` and `m.DR` after a step. -/
def busView (r : Result) : Option (List WireEvent × BitVec 7 × Bool × Byte) :=
  (after r).map fun t => (t.trace, t.m.stat, t.m.held, t.m.dr)

/-- MC1. -/
theorem test_mc1_start_run :
    busView (exec .mcmdStartRun (withScript [good 0] (withMaster (fun m => { m with sa := 0xD0, dr := 0x75 }) ready))) =
      some ([.s, .addr 0x68 false .ack, .tx 0x75 .ack], 0x40, true, 0x75) := by decide

/-- MC2. -/
theorem test_mc2_single_shot_read :
    busView (exec .mcmdStartRunStop (withScript [good 0x68] (held 0xD1 0x75 false ready))) =
      some ([.sr, .addr 0x68 true .ack, .rx 0x68 .nack, .p], 0x20, false, 0x68) := by decide

/-- MC3. -/
theorem test_mc3_address_nack :
    busView
        (exec .mcmdStartRun
          (withScript [{ good 0 with addrAck := .nack }] (withMaster (fun m => { m with sa := 0xA0 }) ready))) =
      some ([.s, .addr 0x50 false .nack], 0x46, true, 0) := by decide

/-- MC4. -/
theorem test_mc4_finish_nack :
    busView (exec .mcmdRunStop (withScript [{ good 0 with txAck := .nack }] (held 0xD0 0x22 false ready))) =
      some ([.tx 0x22 .nack, .p], 0x2A, false, 0x22) := by decide

/-- MC5. -/
theorem test_mc5_run_nack :
    busView (exec .mcmdRun (withScript [{ good 0 with txAck := .nack }] (held 0xD0 0x22 false ready))) =
      some ([.tx 0x22 .nack], 0x4A, true, 0x22) := by decide

/-- MC6 and MC7. -/
theorem test_mc6_stop :
    busView (exec .mcmdStop (withScript [good 0] (held 0xD0 0x22 false ready))) = some ([.p], 0x20, false, 0x22) := by
  decide

theorem test_mc7_stop_not_held :
    busView (exec .mcmdStop (withScript [good 0] ready)) = some ([], 0x20, false, 0) := by decide

/-- MC8 and MC16. -/
theorem test_mc8_run_not_held : faultOf (exec .mcmdRun ready) = some (.masterProtocol 0x1) := by decide

theorem test_mc16_not_enabled : faultOf (exec .mcmdStop State.reset) = some (.uninitUse 0x0) := by decide

/-- MC9: a reserved code in m.CMD. -/
theorem test_mc9_reserved_code : faultOf (step (placeMcmd 0x6 ready)) = some (.masterProtocol 0x6) := by decide

/-- MC10 and MC11. -/
theorem test_mc10_lost_before_address :
    busView
        (exec .mcmdStartRun
          (withScript [{ good 0 with lostBeforeAddr := true }] (withMaster (fun m => { m with sa := 0xD0 }) ready))) =
      some ([.s, .lost], 0x32, false, 0) := by decide

theorem test_mc11_lost_before_data :
    busView
        (exec .mcmdRunStop
          (withScript [{ good 0 with lostBeforeData := true, otherMaster := true }] (held 0xD0 0x22 false ready))) =
      some ([.lost], 0x72, false, 0x22) := by decide

/-- MC12 and MC13. -/
theorem test_mc12_start_ack :
    busView (exec .mcmdStartRunAck (withScript [good 0x12] (held 0xD1 0x75 false ready))) =
      some ([.sr, .addr 0x68 true .ack, .rx 0x12 .ack], 0x40, true, 0x12) := by decide

theorem test_mc13_run_ack :
    busView (exec .mcmdRunAck (withScript [good 0x34] (held 0xD1 0x12 true ready))) =
      some ([.rx 0x34 .ack], 0x40, true, 0x34) := by decide

/-- MC15. -/
theorem test_mc15_read_address_nack :
    busView
        (exec .mcmdStartRunStop
          (withScript [{ good 0 with addrAck := .nack }] (withMaster (fun m => { m with sa := 0xD1 }) ready))) =
      some ([.s, .addr 0x68 true .nack, .p], 0x26, false, 0) := by decide

/-! ### The reference peripheral (40_bus_master R122) -/

/-- The pointer wraps past 0xFF (EN20). -/
theorem test_rp_pointer_wraps :
    let q := RefPeripheral.onEvent { rp [] none with ptr := 0xFF, wc := 1, addressed := .write } (.tx 0xAA .ack)
    q.ptr = 0 ∧ q.mem = [(255, 0xAA)] := by decide

/-- EN4: a NACKed register byte does not set the pointer. -/
theorem test_rp_nacked_pointer :
    (RefPeripheral.onEvent { rp [] (some 0) with ptr := 0x05, addressed := .write } (.tx 0x20 .nack)).ptr = 0x05 := by decide

/-- A TX of a transaction whose address byte was NACKed (R105 leaves the bus held) is none of its own. -/
theorem test_rp_tx_not_addressed :
    [WireEvent.s, .addr 0x50 false .nack, .tx 0x20 .ack, .tx 0x21 .ack].foldl RefPeripheral.onEvent (rp [] none) =
      rp [] none := by decide

/-! ### Engine commands, single steps (95_test_vectors 2.3) -/

/-- R145. -/
theorem test_init_enables :
    (after (exec .init (running .init .compute false 0 0 State.reset))).map
        (fun t => (t.seq.phase, t.m.en, t.regs.status.word)) = some (.done, true, 0x00000001) ∧
      (after (exec .init (running .init .done false 0 0 State.reset))).map
        (fun t => (t.seq.phase, t.regs.status.word)) = some (.idle, 0x00000002) := by decide

/-- EN9: arbitration lost gives code 0x12 and no STOP. -/
theorem test_en9_abort_after_loss :
    (after
        (exec .writeReg
          (withMaster (fun m => { m with error := true, arblst := true })
            (running .writeReg .sendByte true 0 0 ready)))).map
      (fun t => (t.seq.err, t.seq.phase)) = some (0x12, .done) := by decide

/-- EN6: an address NACK gives code 0x06 and a STOP. -/
theorem test_en6_abort_after_nack :
    (after
        (exec .writeReg
          (withMaster (fun m => { m with error := true, adrack := true, held := true })
            (running .writeReg .startAddrW true 0 0 ready)))).map
      (fun t => (t.seq.err, t.seq.phase)) = some (0x06, .stopAbort) := by decide

/-- EN12 and EN13: the codes of byte 0 of 2, 1 of 3 and 2 of 3. -/
theorem test_en13_receive_codes : (rxcode 0 2, rxcode 1 3, rxcode 2 3, rxcode 0 1) = (0xB, 0x9, 0x5, 0x7) := by decide

/-- EN22: the codes of bytes 0 and 15 of 16. -/
theorem test_en22_transmit_codes : (txcode 0 16, txcode 15 16) = (0x1, 0x5) := by decide

/-- EN13: byte 1 of 3 goes to BUF[1]. -/
theorem test_en13_byte_stored :
    (after (exec .burstRead (held 0xD1 0x34 true (running .burstRead .recvByte true 1 3 ready)))).map
      (fun t => (readReg t.regs 0x80, t.seq.i)) = some (0x00003400, 2) := by decide

/-- EN18: byte 3 of 4 is taken from BUF[3] and sent with 0x5. -/
theorem test_en18_last_byte_sent :
    (after
        (exec .burstWrite
          (held 0xD0 0x33 false
            (running .burstWrite .sendByte false 3 4 { ready with regs := setBufWord ready.regs 0 0x44332211 })))).map
      (fun t => (t.m.dr, t.m.cmd)) = some (0x44, 0x5) := by decide

/-- EN10: a burst of no bytes goes straight to its DONE step. -/
theorem test_en10_no_bytes : (after (exec .burstRead ready)).map (fun t => t.seq.phase) = some .done := by decide

/-- R147: RDATA takes m.DR. -/
theorem test_read_reg_done :
    (after
        (exec .readReg
          { running .readReg .done false 0 0 (withMaster (fun m => { m with dr := 0x68 }) ready) with
            seq := { (running .readReg .done false 0 0 ready).seq with rx := true } })).map
      (fun t => (t.regs.rdata, t.regs.status.busy)) = some (0x68, false) := by decide

/-! ### Samples (95_test_vectors 2.4) -/

theorem test_assemble :
    (assemble 0x12 0x34).toInt = 4660 ∧ (assemble 0x80 0x00).toInt = -32768 ∧ (assemble 0xFF 0x00).toInt = -256 := by
  decide

/-- SI1: the order of the reads in the MPU-6050 instance. -/
theorem test_si1_order :
    (List.range 6).map (orderReg mpu6050.accData) = [0x3C, 0x3B, 0x3E, 0x3D, 0x40, 0x3F] := by decide

/-- SI1: the DONE step of READ_ACCEL on the gathered bytes. -/
theorem test_si1_axes :
    (after
        (exec .readAccel
          { running .readAccel .done false 0 0 ready with
            seq :=
              { (running .readAccel .done false 0 0 ready).seq with
                tmp := #v[0x00, 0x40, 0x00, 0x00, 0x00, 0xC0] } })).map
      (fun t => (readReg t.regs 0x30, readReg t.regs 0x34, readReg t.regs 0x38)) =
      some (0x00004000, 0x00000000, 0xFFFFC000) := by decide

/-- SI2. -/
theorem test_si2_gyro_z :
    (after
        (exec .readGyro
          { running .readGyro .done false 0 0 ready with
            seq :=
              { (running .readGyro .done false 0 0 ready).seq with
                tmp := #v[0x00, 0x00, 0x00, 0x00, 0x8F, 0x02] } })).map
      (fun t => t.regs.gyrRaw.z.toInt) = some 655 := by decide

/-! ### The scaler (95_test_vectors 2.5) -/

theorem test_scale_accel_vectors :
    scale .b32 16384 (accDiv .t0) = 0x3F800000 ∧ scale .b64ThenB32 8192 (accDiv .t1) = 0x3F800000 ∧
      scale .b32 0xFFFF (accDiv .t0) = 0xB8800000 ∧ scale .b32 0x8000 (accDiv .t3) = 0xC1800000 := by decide

theorem test_scale_gyro_vectors :
    scale .b32 655 (gyrDiv .t1) = 0x41200000 ∧ scale .b32 0x8000 (gyrDiv .t0) = 0xC37A232D ∧
      scale .b32 0x800A (gyrDiv .t2) = 0xC479AE0D ∧ scale .b64ThenB32 0x800A (gyrDiv .t2) = 0xC479AE0C := by decide

/-- SC3 and SC5: 0x18 under LOW2 and 0x01 under FIELD; 0x01 under EXACT. -/
theorem test_tier_instances :
    tierLow2 0x18 = none ∧ tierField 0x01 = some .t0 ∧ tierExact 0x01 = none ∧ tierExact 0x10 = some .t2 := by decide

/-- SC3. -/
theorem test_sc3_unsupported_code :
    (scaleAccelResults tierLow2 .b32 0x18 { ready.regs with acc := { x := 7, y := 7, z := 7 } }).acc.x = 7 ∧
      (scaleAccelResults tierLow2 .b32 0x18 ready.regs).status.tierInv = true ∧
      (scaleAccelResults tierLow2 .b32 0x18 ready.regs).cfgA = 0x18 := by decide

/-- SC6. -/
theorem test_sc6_gyro_scaled :
    (scaleGyroResults tierField .b32 0x08 { ready.regs with gyrRaw := { x := 0, y := 0, z := 655 } }).gyr.z =
      0x41200000 := by decide

/-! ### ESTIMATE (95_test_vectors 2.6) -/

/-- ES1: holds for every angle function with R203 (a). -/
theorem test_es1_flat : tiltAngle (atanDegOf fun _ => 1) 0 0 0x3F800000 = 0 := by decide +kernel

/-- ES8: T = -0.0. -/
theorem test_es8_face_down : yawTerm (atanDegOf fun _ => 1) { x := 0, y := 0, z := 0xBF800000 } = 0x80000000 := by
  decide +kernel

/-- ES13. -/
theorem test_es13_zero_vector : isNaN (tiltAngle (atanDegOf fun _ => 1) 0 0 0x80000000) = true := by decide

/-- ES5 under RI. -/
theorem test_es5_ri : tiltAngle atanDegRI 0x3F800000 0x3F800000 0x3F800000 = 0x420D0EBC := by decide +kernel

/-- The yaw gate's vectors with T = 45.0 and YAW = 10.0: 4.0, the next value above it, and -4.01. -/
theorem test_yaw_gate :
    yawGate 0 0x41200000 0x42340000 0x40800000 = 0x41200000 ∧
      yawGate 0 0x41200000 0x42340000 0x40800001 = 0x425C0000 ∧
      yawGate 0 0x41200000 0x42340000 0xC08051EC = 0xC20C0000 := by decide

/-- YW1: the sixth sum. -/
theorem test_yw1_sixth_sum : fadd 0x42B85978 0x41937AC6 = 0x42DD382A := by decide

/-! ### Reset (95_test_vectors 2.7) -/

/-- RV2: reset in the middle of a BURST_WRITE emits no STOP and clears BUSY. -/
theorem test_rv2_reset_in_command :
    (after
        (step
          { held 0xD0 0x11 false (running .burstWrite .sendByte false 1 4 ready) with
            sched := [.reset], trace := [.s] })).map
      (fun t => (t.trace, t.regs.status.word, t.m.held)) = some ([.s], 0, false) := by decide

/-- RV3. -/
theorem test_rv3_fault_stays :
    (applyReset { ready with fault := some (.uninitUse 0x2) }).fault = some (.uninitUse 0x2) := by decide

end Sys2Proof.Tests
end

