-- ==== Sys2Proof/Tests/Witnesses.lean ====
section
/-!
SUPPORT. For every statement with hypotheses, a concrete state and operands that meet them all, clause by clause, at the
boundaries of the ranges they name. The theorem's name gives the statement's.
-/

namespace Sys2Proof.Tests

open Sys2Proof.Machine

/-! ### Encoding, step and host window -/

theorem test_witness_DecodeEncodeAgree :
    Instr.wf .mcmdStartRunAck = true ∧ decode (.cmd 0x0000000A) = .ok .estimate ∧ decode (.mcmd 0xB) = .ok .mcmdStartRunAck := by
  decide

theorem test_witness_StepRunsDecodedInstruction_host :
    (hostNext [actCmd .init] State.reset).fault = none ∧ (hostNext [actCmd .init] State.reset).hostWrites 0x00 1 ∧
      (hostNext [actCmd .init] State.reset).regs.status.busy = false ∧ decode (.cmd 1) = .ok .init :=
  ⟨rfl, ⟨rfl, [], rfl⟩, rfl, rfl⟩

/-- A running command whose sequencer moves next. -/
def sequencerNext (s : State) : State := { s with sched := [.sequencer] }

theorem test_witness_StepRunsDecodedInstruction_sequencer :
    (sequencerNext (running .writeReg .done false 0 0 ready)).fault = none ∧
      nextAgent (sequencerNext (running .writeReg .done false 0 0 ready)) = .sequencer ∧
      (sequencerNext (running .writeReg .done false 0 0 ready)).running .writeReg :=
  ⟨rfl, rfl, rfl, rfl⟩

theorem test_witness_StepRunsDecodedInstruction_master :
    (placeMcmd 0x4 ready).fault = none ∧ nextAgent (placeMcmd 0x4 ready) = .master ∧ (placeMcmd 0x4 ready).m.busy = true ∧
      decode (.mcmd (placeMcmd 0x4 ready).m.cmd) = .ok .mcmdStop :=
  ⟨rfl, rfl, rfl, rfl⟩

/-- No choice laid down: the agent is a free one, and one draw is used. -/
theorem test_witness_StepRunsDecodedInstruction_free : State.reset.fault = none ∧ State.reset.sched = [] := by decide

/-- The host of `s` writes `v` to `off`. -/
def writing (off : Nat) (v : Word) (s : State) : State := hostNext [actW off v] s

theorem test_witness_HostAccessEffects_busy :
    (writing 0x8C 1 (running .readReg .done false 0 0 ready)).fault = none ∧
      nextAgent (writing 0x8C 1 (running .readReg .done false 0 0 ready)) = .host ∧ wfAccess 0x8C 4 = true ∧
      (writing 0x8C 1 (running .readReg .done false 0 0 ready)).host = [.write 0x8C 4 1] ∧
      (writing 0x8C 1 (running .readReg .done false 0 0 ready)).regs.status.busy = true ∧ rwOffset 0x8C = true := by
  decide

theorem test_witness_HostAccessEffects_cmd :
    (writing 0 1 ready).fault = none ∧ nextAgent (writing 0 1 ready) = .host ∧ wfAccess 0 4 = true ∧
      (writing 0 1 ready).host = [.write 0 4 1] ∧ (writing 0 1 ready).regs.status.busy = false := by decide

theorem test_witness_HostAccessEffects_rw :
    (writing 0x08 1 ready).fault = none ∧ nextAgent (writing 0x08 1 ready) = .host ∧ wfAccess 0x08 4 = true ∧
      (writing 0x08 1 ready).host = [.write 0x08 4 1] ∧ (writing 0x08 1 ready).regs.status.busy = false ∧
      rwOffset 0x08 = true := by decide

theorem test_witness_HostAccessEffects_ignored :
    (writing 0xFC 1 ready).fault = none ∧ nextAgent (writing 0xFC 1 ready) = .host ∧ wfAccess 0xFC 4 = true ∧
      (writing 0xFC 1 ready).host = [.write 0xFC 4 1] ∧ (writing 0xFC 1 ready).regs.status.busy = false ∧
      rwOffset 0xFC = false ∧ wfAccess 0x04 4 = true ∧ rwOffset 0x04 = false := by decide

theorem test_witness_HostAccessEffects_read :
    (hostNext [actR 0xFC] ready).fault = none ∧ nextAgent (hostNext [actR 0xFC] ready) = .host ∧
      wfAccess 0xFC 4 = true ∧ (hostNext [actR 0xFC] ready).host = [.read 0xFC 4] := by decide

/-- POLL while a command runs, and while none does. -/
theorem test_witness_HostAccessEffects_poll :
    (hostNext [.poll] ready).fault = none ∧ nextAgent (hostNext [.poll] ready) = .host ∧
      (hostNext [.poll] ready).host = [.poll] ∧ (readReg ready.regs 0x04).getLsbD 0 = false ∧
      (readReg (running .readReg .done false 0 0 ready).regs 0x04).getLsbD 0 = true := by decide

theorem test_witness_UnadmittedAccessFaults :
    (hostNext [.write 0x08 1 0] ready).fault = none ∧ nextAgent (hostNext [.write 0x08 1 0] ready) = .host ∧
      ¬(1 = 4 ∧ 0x08 % 4 = 0 ∧ 0x08 ≤ 0xFC) ∧ ¬(4 = 4 ∧ 0xFE % 4 = 0 ∧ 0xFE ≤ 0xFC) ∧
      ¬(4 = 4 ∧ 0x100 % 4 = 0 ∧ 0x100 ≤ 0xFC) ∧ (hostNext [.write 0x08 1 0] ready).host = [.write 0x08 1 0] ∧
      (hostNext [.read 0x100 4] ready).host = [.read 0x100 4] := by decide

theorem test_witness_RwRegistersReadBack :
    rwOffset 0x08 = true ∧ rwOffset 0x44 = true ∧ rwOffset 0x8C = true ∧ wfAccess 0x90 4 = true ∧ (0x90 : Nat) ≠ 0x8C := by
  decide

/-- Each clause: a reserved bit, both ends of the reserved opcodes, COUNT = 17, and an accepted word with COUNT = 16. -/
theorem test_witness_CmdWriteWhileIdle :
    ready.regs.status.busy = false ∧ ¬((0x00000011 : Word).extractLsb' 4 28 = 0) ∧
      (0x0 : Word).extractLsb' 0 4 ∈ [0x0#4, 0xB#4, 0xC#4, 0xD#4, 0xE#4, 0xF#4] ∧
      (0xF : Word).extractLsb' 0 4 ∈ [0x0#4, 0xB#4, 0xC#4, 0xD#4, 0xE#4, 0xF#4] ∧
      (0x5 : Word).extractLsb' 0 4 ∈ [0x4#4, 0x5#4] ∧ 16 < (17 : Byte).toNat ∧
      (0x4 : Word).extractLsb' 4 28 = 0 ∧
      (0x4 : Word).extractLsb' 0 4 ∉ [0x0#4, 0xB#4, 0xC#4, 0xD#4, 0xE#4, 0xF#4] ∧
      ¬((0x4 : Word).extractLsb' 0 4 ∈ [0x4#4, 0x5#4] ∧ 16 < (16 : Byte).toNat) := by decide

theorem test_witness_AcceptanceOfCommands :
    State.reset.regs.status.busy = false ∧ State.reset.regs.status.initDone = false ∧
      (2 ≤ HostCmd.readReg.code.toNat ∧ HostCmd.readReg.code.toNat ≤ 9) ∧
      (2 ≤ HostCmd.scaleGyro.code.toNat ∧ HostCmd.scaleGyro.code.toNat ≤ 9) ∧
      ¬(2 ≤ HostCmd.init.code.toNat ∧ HostCmd.init.code.toNat ≤ 9) ∧
      ¬(2 ≤ HostCmd.estimate.code.toNat ∧ HostCmd.estimate.code.toNat ≤ 9) ∧ ready.regs.status.initDone = true ∧
      ¬((HostCmd.burstRead = .burstRead ∨ HostCmd.burstRead = .burstWrite) ∧
        16 < ({ ready.regs with count := 16 } : Regs).count.toNat) := by decide

theorem test_witness_FaultIsFinal :
    ({ ready with fault := some (.uninitUse 0x2) } : State).fault = some (.uninitUse 0x2) ∧ ready.fault = none := by
  decide

/-! ### Master commands -/

/-- A master that holds the bus. -/
def holding : State := held 0xD1 0x12 true ready

theorem test_witness_IssueChecks :
    State.reset.m.en = false ∧ ready.m.en = true ∧
      (0x6 : BitVec 4) ∉ [0x1#4, 0x3#4, 0x4#4, 0x5#4, 0x7#4, 0x9#4, 0xB#4] ∧ (0x9 : BitVec 4) ∈ [0x1#4, 0x5#4, 0x9#4] ∧
      ready.m.held = false ∧ (0x9 : BitVec 4) ∈ [0x1#4, 0x3#4, 0x4#4, 0x5#4, 0x7#4, 0x9#4, 0xB#4] ∧
      ¬((0x9 : BitVec 4) ∈ [0x1#4, 0x5#4, 0x9#4] ∧ holding.m.held = false) := by decide

/-- A master at work on `c`, and what the environment answers it. -/
def working (c : BitVec 4) (a : BusAnswer) (s : State) : State :=
  withScript [a] (withMaster (fun m => { m with busy := true, cmd := c }) s)

/-- The answer to the command in work. -/
def answerNow (s : State) : BusAnswer := s.env.answer s.draws s.history s.m s.m.cmd

theorem test_witness_CompletionWhileWorking_stop :
    encode .mcmdStop = .mcmd 0x4 ∧ (working 0x4 (good 0) holding).m.busy = true ∧
      (working 0x4 (good 0) holding).m.cmd = 0x4 ∧ (working 0x4 (good 0) holding).m.held = true ∧
      (working 0x4 (good 0) ready).m.held = false ∧ encode .mcmdRun = .mcmd 0x1 ∧
      (working 0x4 (good 0) holding).m.cmd ≠ 0x1 := by decide

theorem test_witness_CompletionWhileWorking_run :
    encode .mcmdRunAck = .mcmd 0x9 ∧ (working 0x9 (good 0) holding).m.cmd = 0x9 ∧
      (0x9 : BitVec 4) ∈ [0x1#4, 0x5#4, 0x9#4] ∧
      (answerNow (working 0x9 (good 0) holding)).lostBeforeData = false ∧
      (answerNow (working 0x5 { good 0 with lostBeforeData := true } holding)).lostBeforeData = true := by decide

theorem test_witness_CompletionWhileWorking_start :
    encode .mcmdStartRunStop = .mcmd 0x7 ∧ (working 0x7 (good 0) ready).m.cmd = 0x7 ∧
      (0x7 : BitVec 4) ∈ [0x3#4, 0x7#4, 0xB#4] ∧
      (answerNow (working 0x7 { good 0 with lostBeforeAddr := true } ready)).lostBeforeAddr = true ∧
      (answerNow (working 0x7 { good 0 with addrAck := .nack } ready)).lostBeforeAddr = false ∧
      (answerNow (working 0x7 { good 0 with addrAck := .nack } ready)).addrAck = .nack ∧
      (answerNow (working 0x7 { good 0 with lostBeforeData := true } ready)).lostBeforeAddr = false ∧
      (answerNow (working 0x7 { good 0 with lostBeforeData := true } ready)).addrAck = .ack ∧
      (answerNow (working 0x7 { good 0 with lostBeforeData := true } ready)).lostBeforeData = true ∧
      (answerNow (working 0x7 (good 0) ready)).lostBeforeAddr = false ∧
      (answerNow (working 0x7 (good 0) ready)).addrAck = .ack ∧
      (answerNow (working 0x7 (good 0) ready)).lostBeforeData = false := by decide

/-- What the environment answers to command `c` issued in this state. -/
def answerTo (c : BitVec 4) (s : State) : BusAnswer := s.env.answer s.draws s.history (s.m.working c) c

theorem test_witness_McmdRunCompletes :
    (Instr.mcmdRun, (0x1 : BitVec 4), Ack.nack) ∈ [(Instr.mcmdRun, (0x1 : BitVec 4), Ack.nack), (.mcmdRunAck, 0x9, .ack)] ∧
      (Instr.mcmdRunAck, (0x9 : BitVec 4), Ack.ack) ∈
        [(Instr.mcmdRun, (0x1 : BitVec 4), Ack.nack), (.mcmdRunAck, 0x9, .ack)] ∧
      State.reset.m.busy = false ∧ State.reset.m.en = false ∧ ready.m.busy = false ∧ ready.m.en = true ∧
      ready.m.held = false ∧ holding.m.busy = false ∧ holding.m.en = true ∧ holding.m.held = true ∧
      (answerTo 0x1 (withScript [good 0] holding)).lostBeforeData = false ∧
      (answerTo 0x9 (withScript [{ good 0 with lostBeforeData := true }] holding)).lostBeforeData = true := by decide

theorem test_witness_McmdStartRunCompletes :
    (Instr.mcmdStartRun, (0x3 : BitVec 4), Ack.nack) ∈
        [(Instr.mcmdStartRun, (0x3 : BitVec 4), Ack.nack), (.mcmdStartRunAck, 0xB, .ack)] ∧
      (Instr.mcmdStartRunAck, (0xB : BitVec 4), Ack.ack) ∈
        [(Instr.mcmdStartRun, (0x3 : BitVec 4), Ack.nack), (.mcmdStartRunAck, 0xB, .ack)] ∧
      State.reset.m.busy = false ∧ State.reset.m.en = false ∧ ready.m.busy = false ∧ ready.m.en = true ∧
      (answerTo 0x3 (withScript [{ good 0 with lostBeforeAddr := true }] ready)).lostBeforeAddr = true ∧
      (answerTo 0xB (withScript [{ good 0 with addrAck := .nack }] ready)).lostBeforeAddr = false ∧
      (answerTo 0xB (withScript [{ good 0 with addrAck := .nack }] ready)).addrAck = .nack ∧
      (answerTo 0x3 (withScript [{ good 0 with lostBeforeData := true }] ready)).addrAck = .ack ∧
      (answerTo 0x3 (withScript [{ good 0 with lostBeforeData := true }] ready)).lostBeforeData = true ∧
      (answerTo 0xB (withScript [good 0] ready)).lostBeforeAddr = false ∧
      (answerTo 0xB (withScript [good 0] ready)).addrAck = .ack ∧
      (answerTo 0xB (withScript [good 0] ready)).lostBeforeData = false := by decide

theorem test_witness_McmdStopCompletes :
    State.reset.m.busy = false ∧ State.reset.m.en = false ∧ holding.m.busy = false ∧ holding.m.en = true ∧
      holding.m.held = true ∧ ready.m.busy = false ∧ ready.m.en = true ∧ ready.m.held = false := by decide

theorem test_witness_McmdRunStopCompletes :
    State.reset.m.busy = false ∧ State.reset.m.en = false ∧ ready.m.busy = false ∧ ready.m.en = true ∧
      ready.m.held = false ∧ holding.m.busy = false ∧ holding.m.en = true ∧ holding.m.held = true ∧
      (answerTo 0x5 (withScript [good 0] holding)).lostBeforeData = false ∧
      (answerTo 0x5 (withScript [{ good 0 with lostBeforeData := true }] holding)).lostBeforeData = true := by decide

theorem test_witness_McmdStartRunStopCompletes :
    State.reset.m.busy = false ∧ State.reset.m.en = false ∧ holding.m.busy = false ∧ holding.m.en = true ∧
      (answerTo 0x7 (withScript [{ good 0 with lostBeforeAddr := true }] holding)).lostBeforeAddr = true ∧
      (answerTo 0x7 (withScript [{ good 0 with addrAck := .nack }] holding)).lostBeforeAddr = false ∧
      (answerTo 0x7 (withScript [{ good 0 with addrAck := .nack }] holding)).addrAck = .nack ∧
      (answerTo 0x7 (withScript [{ good 0 with lostBeforeData := true }] holding)).addrAck = .ack ∧
      (answerTo 0x7 (withScript [{ good 0 with lostBeforeData := true }] holding)).lostBeforeData = true ∧
      (answerTo 0x7 (withScript [good 0] holding)).lostBeforeAddr = false ∧
      (answerTo 0x7 (withScript [good 0] holding)).addrAck = .ack ∧
      (answerTo 0x7 (withScript [good 0] holding)).lostBeforeData = false := by decide

theorem test_witness_CompletedCommandFlags :
    encode .mcmdRunAck = .mcmd 0x9 ∧ holding.m.busy = false ∧ holding.m.en = true ∧
      (wfNeedsHeld 0x9 = true → holding.m.held = true) ∧ encode .mcmdStop = .mcmd 0x4 ∧ ready.m.busy = false ∧
      ready.m.en = true ∧ (wfNeedsHeld 0x4 = true → ready.m.held = true) := by decide

theorem test_witness_ReferencePeripheralRules :
    mcmdStartBit 0x5 = false ∧ mcmdStartBit 0x3 = true ∧ (rp [] (some 2)).wc = 0 ∧ (rp [] none).addressed ≠ .write ∧
      (rp [] none).addressed ≠ .read ∧ ({ rp [] none with addressed := .read } : RefPeripheral).addressed = .read ∧
      ({ rp [] (some 2) with wc := 2, addressed := .write } : RefPeripheral).wc ≠ 0 ∧
      ({ rp [] (some 2) with wc := 2, addressed := .write } : RefPeripheral).addressed = .write ∧
      (0x50 : BusAddr) ≠ (rp [] none).addr := by decide

theorem test_witness_MemoryReadAfterWrite :
    Memory.wf [(0x10, 0xA5), (0xFF, 0x01)] = true ∧ (0x11 : Nat) ≠ 0x10 := by decide

/-! ### Engine commands -/

theorem test_witness_InitCompletes :
    (running .init .compute false 0 0 State.reset).running .init ∧
      (running .init .compute false 0 0 State.reset).seq.phase = .compute ∧
      (running .init .done false 0 0 State.reset).running .init ∧
      (running .init .done false 0 0 State.reset).seq.phase = .done :=
  ⟨⟨rfl, rfl⟩, rfl, ⟨rfl, rfl⟩, rfl⟩

theorem test_witness_ReadTransactionPhases_readReg :
    (running .readReg .startAddrW false 0 0 ready).running .readReg ∧
      readTarget .readReg (running .readReg .startAddrW false 0 0 ready) = some (0x68, 0x10) ∧
      (running .readReg .startAddrW false 0 0 ready).mayIssue .startAddrW ∧
      (running .readReg .startAddrW true 0 0 ready).mayJudge .startAddrW ∧
      (running .readReg .startAddrR false 0 0 ready).mayIssue .startAddrR ∧
      (running .readReg .startAddrR true 0 0 ready).mayJudge .startAddrR :=
  ⟨⟨rfl, rfl⟩, rfl, ⟨rfl, rfl, rfl⟩, ⟨rfl, rfl, rfl⟩, ⟨rfl, rfl, rfl⟩, ⟨rfl, rfl, rfl⟩⟩

/-- The state with `seq.t` set. -/
def atRead (t : BitVec 3) (s : State) : State := { s with seq := { s.seq with t := t } }

/-- The first and the last of the six reads. -/
theorem test_witness_ReadTransactionPhases_samples :
    (atRead 0 (running .readAccel .startAddrW false 0 0 ready)).running .readAccel ∧
      readTarget .readAccel (atRead 0 (running .readAccel .startAddrW false 0 0 ready)) =
        some (0x68, Config.sensorMap.accData.x.lo) ∧
      (atRead 0 (running .readAccel .startAddrW false 0 0 ready)).mayIssue .startAddrW ∧
      (atRead 5 (running .readGyro .startAddrR false 0 0 ready)).running .readGyro ∧
      readTarget .readGyro (atRead 5 (running .readGyro .startAddrR false 0 0 ready)) =
        some (0x68, Config.sensorMap.gyrData.z.hi) ∧
      (atRead 5 (running .readGyro .startAddrR false 0 0 ready)).mayIssue .startAddrR :=
  ⟨⟨rfl, rfl⟩, rfl, ⟨rfl, rfl, rfl⟩, ⟨rfl, rfl⟩, rfl, ⟨rfl, rfl, rfl⟩⟩

theorem test_witness_ReadTransactionPhases_scale :
    (running .scaleAccel .startAddrR true 0 0 ready).running .scaleAccel ∧
      readTarget .scaleAccel (running .scaleAccel .startAddrR true 0 0 ready) = some (0x68, Config.sensorMap.accCfg) ∧
      (running .scaleAccel .startAddrR true 0 0 ready).mayJudge .startAddrR ∧
      (running .scaleGyro .startAddrW true 0 0 ready).running .scaleGyro ∧
      readTarget .scaleGyro (running .scaleGyro .startAddrW true 0 0 ready) = some (0x68, Config.sensorMap.gyrCfg) ∧
      (running .scaleGyro .startAddrW true 0 0 ready).mayJudge .startAddrW :=
  ⟨⟨rfl, rfl⟩, rfl, ⟨rfl, rfl, rfl⟩, ⟨rfl, rfl⟩, rfl, ⟨rfl, rfl, rfl⟩⟩

/-- The state with `seq.rx` set. -/
def withRx (b : Bool) (s : State) : State := { s with seq := { s.seq with rx := b } }

theorem test_witness_ReadRegCompletes :
    (withRx true (running .readReg .done false 0 0 ready)).running .readReg ∧
      (withRx true (running .readReg .done false 0 0 ready)).seq.phase = .done ∧
      (withRx true (running .readReg .done false 0 0 ready)).seq.rx = true ∧
      (withRx false (running .readReg .done false 0 0 ready)).running .readReg ∧
      (withRx false (running .readReg .done false 0 0 ready)).seq.rx = false :=
  ⟨⟨rfl, rfl⟩, rfl, rfl, ⟨rfl, rfl⟩, rfl⟩

theorem test_witness_WriteRegPhases :
    (running .writeReg .startAddrW false 0 0 ready).running .writeReg ∧
      (running .writeReg .startAddrW false 0 0 ready).mayIssue .startAddrW ∧
      (running .writeReg .startAddrW true 0 0 ready).mayJudge .startAddrW ∧
      (running .writeReg .startAddrW true 0 0 ready).m.error = false ∧
      (running .writeReg .sendByte false 0 0 holding).mayIssue .sendByte ∧
      (running .writeReg .sendByte false 0 0 holding).m.held = true ∧
      (running .writeReg .sendByte true 0 0 ready).mayJudge .sendByte ∧
      (running .writeReg .sendByte true 0 0 ready).m.error = false ∧
      (running .writeReg .done false 0 0 ready).seq.phase = .done :=
  ⟨⟨rfl, rfl⟩, ⟨rfl, rfl, rfl⟩, ⟨rfl, rfl, rfl⟩, rfl, ⟨rfl, rfl, rfl⟩, rfl, ⟨rfl, rfl, rfl⟩, rfl, rfl⟩

/-- A master whose last command failed. -/
def failed (s : State) : State := withMaster (fun m => { m with error := true, datack := true }) s

theorem test_witness_AbortReleasesBus :
    HostCmd.burstRead ∈ [HostCmd.writeReg, .burstRead, .burstWrite] ∧
      (running .burstRead .recvByte true 1 3 (failed holding)).running .burstRead ∧
      Phase.recvByte ∈ [Phase.startAddrW, .startAddrR, .recvByte, .sendByte] ∧ phaseOf .burstRead .recvByte = true ∧
      (running .burstRead .recvByte true 1 3 (failed holding)).mayJudge .recvByte ∧
      (running .burstRead .recvByte true 1 3 (failed holding)).m.error = true ∧
      (running .writeReg .stopAbort false 0 0 holding).mayIssue .stopAbort ∧
      (running .burstWrite .stopAbort true 0 1 ready).mayJudge .stopAbort ∧
      (running .burstWrite .done false 0 1 ready).seq.phase = .done :=
  ⟨by decide, ⟨rfl, rfl⟩, by decide, rfl, ⟨rfl, rfl, rfl⟩, rfl, ⟨rfl, rfl, rfl⟩, ⟨rfl, rfl, rfl⟩, rfl⟩

/-- Byte 0 of 1, byte 1 of 16, and byte 15 of 16. -/
theorem test_witness_BurstReadPhases :
    (running .burstRead .startAddrR false 0 1 holding).running .burstRead ∧
      (running .burstRead .startAddrR false 0 1 holding).seq.n.toNat ≤ 16 ∧
      (running .burstRead .startAddrW false 0 1 ready).mayIssue .startAddrW ∧
      (running .burstRead .startAddrW true 0 1 holding).mayJudge .startAddrW ∧
      (running .burstRead .startAddrW true 0 1 holding).m.error = false ∧
      (running .burstRead .startAddrR false 0 1 holding).mayIssue .startAddrR ∧
      (running .burstRead .startAddrR false 0 1 holding).seq.i = 0 ∧
      (running .burstRead .recvByte false 1 16 holding).seq.n.toNat ≤ 16 ∧
      (running .burstRead .recvByte false 1 16 holding).mayIssue .recvByte ∧
      (running .burstRead .recvByte false 1 16 holding).m.held = true ∧
      0 < (running .burstRead .recvByte false 1 16 holding).seq.i.toNat ∧
      (running .burstRead .recvByte true 15 16 ready).mayJudge .recvByte ∧
      (running .burstRead .recvByte true 15 16 ready).m.error = false ∧
      (running .burstRead .recvByte true 15 16 ready).seq.i.toNat <
        (running .burstRead .recvByte true 15 16 ready).seq.n.toNat ∧
      (running .burstRead .startAddrR true 0 16 ready).mayJudge .startAddrR ∧
      (running .burstRead .done false 15 16 ready).seq.phase = .done :=
  ⟨⟨rfl, rfl⟩, by decide, ⟨rfl, rfl, rfl⟩, ⟨rfl, rfl, rfl⟩, rfl, ⟨rfl, rfl, rfl⟩, rfl, by decide, ⟨rfl, rfl, rfl⟩, rfl,
    by decide, ⟨rfl, rfl, rfl⟩, rfl, by decide, ⟨rfl, rfl, rfl⟩, rfl⟩

theorem test_witness_BurstWritePhases :
    (running .burstWrite .sendByte false 15 16 holding).running .burstWrite ∧
      (running .burstWrite .sendByte false 15 16 holding).seq.n.toNat ≤ 16 ∧
      (running .burstWrite .startAddrW false 0 1 ready).mayIssue .startAddrW ∧
      (running .burstWrite .startAddrW true 0 1 holding).mayJudge .startAddrW ∧
      (running .burstWrite .startAddrW true 0 1 holding).m.error = false ∧
      (running .burstWrite .sendByte false 15 16 holding).seq.i.toNat < 16 ∧
      (running .burstWrite .sendByte false 15 16 holding).mayIssue .sendByte ∧
      (running .burstWrite .sendByte false 15 16 holding).m.held = true ∧
      (running .burstWrite .sendByte true 0 2 holding).mayJudge .sendByte ∧
      (running .burstWrite .sendByte true 0 2 holding).m.error = false ∧
      (running .burstWrite .sendByte true 0 2 holding).seq.i.toNat <
        (running .burstWrite .sendByte true 0 2 holding).seq.n.toNat ∧
      (running .burstWrite .done false 0 1 ready).seq.phase = .done :=
  ⟨⟨rfl, rfl⟩, by decide, ⟨rfl, rfl, rfl⟩, ⟨rfl, rfl, rfl⟩, rfl, by decide, ⟨rfl, rfl, rfl⟩, rfl, ⟨rfl, rfl, rfl⟩, rfl,
    by decide, rfl⟩

/-- 0 of 1, 0 of 2, 1 of 3, 1 of 2 and 2 of 3: each case of rxcode and txcode at its boundary. -/
theorem test_witness_BurstCommandSelection :
    (0 < 1 ∧ 1 = 1 ∧ 0 = 0) ∧ (0 < 2 ∧ 2 ≤ 2 ∧ 0 = 0) ∧ (1 < 3 ∧ 3 ≤ 3 ∧ 0 < 1 ∧ 1 < 3 - 1) ∧
      (1 < 2 ∧ 2 ≤ 2 ∧ 1 = 2 - 1) ∧ (2 < 3 ∧ 2 = 3 - 1) ∧ (0 < 2 ∧ 0 ≠ 2 - 1) := by decide

theorem test_witness_BurstOfNoBytes :
    (HostCmd.burstWrite = .burstRead ∨ HostCmd.burstWrite = .burstWrite) ∧ ready.regs.status.busy = false ∧
      ready.regs.status.initDone = true ∧ ready.regs.count = 0 := by decide

/-! ### Samples, scaling and the estimator -/

theorem test_witness_SamplesGatheredAndStored :
    (HostCmd.readAccel = .readAccel ∨ HostCmd.readAccel = .readGyro) ∧
      (atRead 0 (running .readAccel .startAddrR true 0 0 ready)).running .readAccel ∧
      (atRead 0 (running .readAccel .startAddrR true 0 0 ready)).mayJudge .startAddrR ∧
      (atRead 0 (running .readAccel .startAddrR true 0 0 ready)).seq.t.toNat ≤ 5 ∧
      (atRead 5 (running .readGyro .startAddrR true 0 0 (failed ready))).running .readGyro ∧
      (atRead 5 (running .readGyro .startAddrR true 0 0 (failed ready))).mayJudge .startAddrR ∧
      (atRead 5 (running .readGyro .startAddrR true 0 0 (failed ready))).seq.t.toNat ≤ 5 ∧
      (running .readGyro .done false 0 0 ready).seq.phase = .done :=
  ⟨Or.inl rfl, ⟨rfl, rfl⟩, ⟨rfl, rfl, rfl⟩, by decide, ⟨rfl, rfl⟩, ⟨rfl, rfl, rfl⟩, by decide, rfl⟩

theorem test_witness_ScaleAccelCompletes :
    (running .scaleAccel .compute false 0 0 ready).running .scaleAccel ∧
      (running .scaleAccel .compute false 0 0 ready).seq.phase = .compute ∧
      (running .scaleAccel .done false 0 0 ready).running .scaleAccel ∧
      (running .scaleAccel .done false 0 0 ready).seq.phase = .done :=
  ⟨⟨rfl, rfl⟩, rfl, ⟨rfl, rfl⟩, rfl⟩

theorem test_witness_ScaleGyroCompletes :
    (withRx true (running .scaleGyro .compute false 0 0 ready)).running .scaleGyro ∧
      (withRx true (running .scaleGyro .compute false 0 0 ready)).seq.phase = .compute ∧
      (withRx true (running .scaleGyro .done false 0 0 ready)).running .scaleGyro ∧
      (withRx true (running .scaleGyro .done false 0 0 ready)).seq.phase = .done :=
  ⟨⟨rfl, rfl⟩, rfl, ⟨rfl, rfl⟩, rfl⟩

theorem test_witness_ScalerFacts :
    (accDiv .t0 = accDiv .t0 ∨ accDiv .t0 = gyrDiv .t0) ∧ (gyrDiv .t3 = accDiv .t3 ∨ gyrDiv .t3 = gyrDiv .t3) ∧
      (Tier.t1 = .t0 ∨ Tier.t1 = .t1) := by decide

/-- 1.0, 2.0 and 3.0 are finite and their results too, 2.0 is not 0, and 1.0 - 1.0 is. -/
theorem test_witness_ArithmeticRoundsToNearest :
    (ratValue 0x3F800000).isSome = true ∧ (ratValue 0x40000000).isSome = true ∧ (ratValue 0x40400000).isSome = true ∧
      (ratValue (fadd 0x3F800000 0x40000000)).isSome = true ∧ (ratValue (fmul 0x3F800000 0x40000000)).isSome = true ∧
      (ratValue (fdiv 0x3F800000 0x40000000)).isSome = true ∧ ratValue 0x40000000 ≠ some 0 ∧
      (ratValue 0x3F800000).any (fun a => 0 < a && a - a == 0) = true ∧ magOf 0x80000000 = 0 := by decide +kernel

/-- A result that overflows, and a tie: 1 + 2^-24 lies halfway between 1.0 and the next value. -/
theorem test_witness_ArithmeticRoundsToNearest_bounds :
    isFinite32 (fadd 0x7F7FFFFF 0x7F7FFFFF) = false ∧ fadd 0x3F800000 0x33800000 = 0x3F800000 ∧
      fadd 0x3F800001 0x33800000 = 0x3F800002 := by decide +kernel

/-- An infinity with a finite value, with a zero and with each infinity; and a finite value over a zero. -/
theorem test_witness_ArithmeticRoundsToNearest_infinities :
    magOf 0x7F800000 = inf32 ∧ isNaN 0xFF800000 = false ∧ signOf 0xFF800000 ≠ signOf 0x7F800000 ∧
      signOf 0x7F800000 = signOf 0x7F800000 ∧ isNaN 0x3F800000 = false ∧ isFinite32 0x3F800000 = true ∧
      magOf 0x3F800000 ≠ 0 ∧ isFinite32 0x80000000 = true ∧ magOf 0x80000000 = 0 ∧ magOf 0xFF800000 ≠ 0 := by decide

/-- A NaN, both infinities, both zeros and a negative number. -/
theorem test_witness_InvalidOperationsGiveNaN :
    isNaN 0x7F800001 = true ∧ magOf 0x7F800000 = inf32 ∧ magOf 0xFF800000 = inf32 ∧
      signOf 0x7F800000 ≠ signOf 0xFF800000 ∧ signOf 0xFF800000 = signOf 0xFF800000 ∧ magOf 0x00000000 = 0 ∧ magOf 0x80000000 = 0 ∧ signOf 0x80000001 = true ∧
      magOf 0x80000001 ≠ 0 ∧ isNaN 0x7F800000 = false := by decide

theorem test_witness_AngleFunctionProperties :
    isNaN 0x7F800001 = true ∧ isNaN 0xFF800000 = false ∧ isNaN 0x00000001 = false ∧
      orderKey 0xFF800000 ≤ orderKey 0x00000001 ∧ orderKey 0x80000000 ≤ orderKey 0x00000000 ∧ fgt 0x00000001 0 = true := by
  decide

/-- The state with these physical values. -/
def withValues (ax ay az gz yaw : F32) (s : State) : State :=
  { s with
    regs := { s.regs with acc := { x := ax, y := ay, z := az }, gyr := { s.regs.gyr with z := gz }, yaw := yaw } }

/-- ES1 has a tilt that is no NaN, ES12 one that is. -/
theorem test_witness_EstimateCompletes :
    (running .estimate .compute false 0 0 ready).running .estimate ∧
      (running .estimate .compute false 0 0 ready).seq.phase = .compute ∧
      (withValues 0 0 0x3F800000 0 0 (running .estimate .done false 0 0 ready)).running .estimate ∧
      (withValues 0 0 0x3F800000 0 0 (running .estimate .done false 0 0 ready)).seq.phase = .done ∧
      isNaN (atanDeg (fdiv 0 (fsqrt (fadd (fmul 0 0) (fmul 0x3F800000 0x3F800000))))) = false ∧
      isNaN (atanDeg (fdiv 0 (fsqrt (fadd (fmul 0 0) (fmul 0 0))))) = true :=
  ⟨⟨rfl, rfl⟩, rfl, ⟨rfl, rfl⟩, rfl, by decide +kernel, by decide +kernel⟩

/-- The neighbours of the boundaries: just above 4.0, just below -4.0, the boundaries themselves, and a NaN. -/
theorem test_witness_YawGateRule :
    fgt 0x40800001 0x40800000 = true ∧ fgt 0xC0800000 0xC0800001 = true ∧ fgt 0x40800000 0x40800000 = false ∧
      fgt 0xC0800000 0x40800000 = false ∧ isNaN 0x7FC00000 = true ∧ isNaN (fadd 0x41200000 0x3F800000) = false ∧
      isNaN (fsub 0x41200000 0x3F800000) = false := by decide

/-- Ax = 1.0 and Ay = 0 for a positive root; Ax = 2.0 and Ay = -0.0 over a zero Az; and Az = -1.0. -/
theorem test_witness_NonFiniteCasesPropagate :
    fgt (fsqrt (fadd (fmul 0x3F800000 0x3F800000) (fmul 0 0))) 0 = true ∧ magOf 0x80000000 = 0 ∧ magOf 0 = 0 ∧
      magOf 0xFF800000 ≠ 0 ∧ isNaN 0xFF800000 = false ∧ fgt 0 0xBF800000 = true ∧
      isNaN (fdiv (fsqrt (fadd (fmul 0x3F800000 0x3F800000) (fmul 0 0))) 0xBF800000) = false ∧
      magOf (fdiv (fsqrt (fadd (fmul 0x3F800000 0x3F800000) (fmul 0 0))) 0xBF800000) ≠ 0 ∧
      isFinite32 0x41200000 = true ∧ isNaN 0x7F800000 = false := by decide +kernel

theorem test_witness_PoisonedYawStaysNonFinite :
    ∃ t, step (sequencerNext (withValues 0 0 0 0x40A00000 0x7F800000 (running .estimate .done false 0 0 ready))) =
        .next t ∧
      isFinite32
          (sequencerNext
            (withValues 0 0 0 0x40A00000 0x7F800000 (running .estimate .done false 0 0 ready))).regs.yaw = false ∧
      nextAgent (sequencerNext (withValues 0 0 0 0x40A00000 0x7F800000 (running .estimate .done false 0 0 ready))) ≠
        .reset :=
  ⟨_, rfl, by decide +kernel, by decide +kernel⟩

theorem test_witness_YawChangesOnlyByEstimate_reset :
    ∃ t, step { withValues 0 0 0 0 0x41200000 ready with sched := [.reset] } = .next t ∧ t.regs.yaw ≠ 0x41200000 :=
  ⟨_, rfl, by decide⟩

/-- -0.0 plus T = +0.0 is +0.0. -/
theorem test_witness_YawChangesOnlyByEstimate_estimate :
    ∃ t,
      step
          (sequencerNext
            (withValues 0 0 0x3F800000 0x40A00000 0x80000000 (running .estimate .done false 0 0 ready))) =
        .next t ∧ t.regs.yaw ≠ 0x80000000 :=
  ⟨_, rfl, by decide +kernel⟩

/-! ### Who writes what -/

/-- A step of this state completes, and the next state has the property. -/
def stepsTo (s : State) (p : State → Bool) : Bool := (after (step s)).any p

theorem test_witness_StatusFlagWriters_busy :
    stepsTo (writing 0 2 ready) (fun t => t.regs.status.busy) = true ∧
      stepsTo (sequencerNext (running .writeReg .done false 0 0 ready)) (fun t => !t.regs.status.busy) = true ∧
      stepsTo { running .writeReg .done false 0 0 ready with sched := [.reset] } (fun t => !t.regs.status.busy) = true := by
  decide

theorem test_witness_StatusFlagWriters_initDone :
    stepsTo (sequencerNext (running .init .done false 0 0 State.reset)) (fun t => t.regs.status.initDone) = true ∧
      State.reset.regs.status.initDone = false ∧
      stepsTo { ready with sched := [.reset] } (fun t => !t.regs.status.initDone) = true ∧
      ready.regs.status.initDone = true := by decide

theorem test_witness_StatusFlagWriters_ovr_badCmd :
    stepsTo (writing 0x8C 1 (running .readReg .done false 0 0 ready)) (fun t => t.regs.status.ovr) = true ∧
      stepsTo (writing 0 0xB ready) (fun t => t.regs.status.badCmd) = true ∧
      stepsTo (writing 0 2 ready.overrun.rejecting) (fun t => !t.regs.status.ovr && !t.regs.status.badCmd) = true ∧
      stepsTo { ready.overrun with sched := [.reset] } (fun t => !t.regs.status.ovr) = true := by decide

/-- SCALE_ACCEL in its DONE step, with configuration byte `cfg` and TIERINV as given. -/
def scaling (cfg : Byte) (inv : Bool) : State :=
  sequencerNext
    (withRx true
      (running .scaleAccel .done false 0 0
        (withMaster (fun m => { m with dr := cfg })
          { ready with regs := { ready.regs with status := { ready.regs.status with tierInv := inv } } })))

/-- What TIERINV and CFG_A become does not depend on which tier the map answers. -/
theorem scaleAccelResults_status (f : Byte → Option Tier) (ev : ScaleEval) (cfg : Byte) (r : Regs) :
    (scaleAccelResults f ev cfg r).status.tierInv = (f cfg).isNone ∧ (scaleAccelResults f ev cfg r).cfgA = cfg := by
  unfold scaleAccelResults
  cases f cfg <;> exact ⟨rfl, rfl⟩

/-- The tier map is an instance: one of the two values of TIERINV changes, whichever it answers. -/
theorem test_witness_StatusFlagWriters_tierInv :
    (∃ inv t, step (scaling 0 inv) = .next t ∧ t.regs.status.tierInv ≠ (scaling 0 inv).regs.status.tierInv) ∧
      stepsTo { scaling 0 true with sched := [.reset] } (fun t => !t.regs.status.tierInv) = true := by
  refine ⟨⟨(Config.tierOf 0).isSome, _, rfl, ?_⟩, by decide⟩
  show (scaleAccelResults Config.tierOf Config.scaleEval 0 _).status.tierInv ≠ (Config.tierOf 0).isSome
  rw [(scaleAccelResults_status ..).1]
  cases Config.tierOf 0 <;> simp

theorem test_witness_ResultRegisterWriters_phases :
    stepsTo
          (sequencerNext (withRx true (running .readReg .done false 0 0 (withMaster (fun m => { m with dr := 7 }) ready))))
          (fun t => t.regs.rdata != 0) = true ∧
      stepsTo
          (sequencerNext
            (running .burstWrite .done false 0 1 { ready with regs := { ready.regs with result := 0x06 } }))
          (fun t => t.regs.result != 0x06) = true ∧
      stepsTo
          (sequencerNext
            { running .readGyro .done false 0 0 ready with
              seq := { (running .readGyro .done false 0 0 ready).seq with tmp := #v[1, 0, 0, 0, 0, 0] } })
          (fun t => t.regs.gyrRaw.x != 0) = true ∧
      stepsTo (sequencerNext (running .burstRead .recvByte true 15 16 (held 0xD1 0x12 true ready)))
          (fun t => bufByte t.regs 15 != 0) = true := by decide

theorem test_witness_ResultRegisterWriters_host :
    stepsTo (writing 0x38 1 ready) (fun t => t.regs.accRaw.z != 0) = true ∧
      stepsTo (writing 0x3C 1 ready) (fun t => t.regs.gyrRaw.x != 0) = true ∧
      stepsTo (writing 0x58 1 ready) (fun t => t.regs.acc.z != 0) = true ∧
      stepsTo (writing 0x5C 1 ready) (fun t => t.regs.gyr.x != 0) = true ∧
      stepsTo (writing 0x8C 1 ready) (fun t => bufByte t.regs 12 != 0) = true := by decide

/-- CFG_A takes the byte received, whatever tier it maps to. -/
theorem test_witness_ResultRegisterWriters_cfgA :
    ∃ t, step (scaling 8 false) = .next t ∧ t.regs.cfgA ≠ (scaling 8 false).regs.cfgA := by
  refine ⟨_, rfl, ?_⟩
  show (scaleAccelResults Config.tierOf Config.scaleEval 8 _).cfgA ≠ 0
  rw [(scaleAccelResults_status ..).2]
  decide

/-- ES1 gives TILT_X = +0.0, whatever it held before. -/
theorem test_witness_ResultRegisterWriters_tilt :
    ∃ t,
      step
          (sequencerNext
            (withValues 0 0 0x3F800000 0 0
              (running .estimate .done false 0 0 { ready with regs := { ready.regs with tiltX := 1 } }))) =
        .next t ∧ t.regs.tiltX ≠ 1 :=
  ⟨_, rfl, by decide +kernel⟩

theorem test_witness_ArgumentRegisterWriters :
    stepsTo (writing 0x08 1 ready) (fun t => t.regs.sa != ready.regs.sa) = true ∧
      stepsTo (writing 0x0C 1 ready) (fun t => t.regs.ra != ready.regs.ra) = true ∧
      stepsTo (writing 0x10 1 ready) (fun t => t.regs.wdata != ready.regs.wdata) = true ∧
      stepsTo (writing 0x14 1 ready) (fun t => t.regs.count != ready.regs.count) = true ∧
      stepsTo (writing 0x20 1 ready) (fun t => t.regs.imuSa != ready.regs.imuSa) = true ∧
      nextAgent (writing 0x20 1 ready) ≠ .reset := by decide

theorem test_witness_TraceGrowsByMasterAlone : stepsTo (placeMcmd 0x3 (withScript [good 0] ready)) (fun t => t.trace != []) = true := by
  decide

/-! ### Invariants -/

/-- WRITE_REG in its SEND_BYTE phase: the data byte is issued, and the master works on it. -/
def sending : State :=
  running .writeReg .sendByte true 0 0
    (withMaster (fun m => { m with busy := true, cmd := 0x5 }) (held 0xD0 0x5A false (withScript [good 0] ready)))

theorem test_witness_Inv : sending.Inv where
  busy_iff_op := rfl
  idle_bus h := by cases h
  phase_of_op op h := by cases h; rfl
  latched_agree _ := ⟨rfl, rfl, rfl, rfl⟩
  init_enables _ := rfl
  init_done_enabled h := by cases h
  bus_after_init _ _ _ := rfl
  error_flags := rfl
  busy_issued _ := ⟨rfl, rfl⟩
  issued_code op h _ := by cases h; rfl
  burst_index op h k := by cases h; simp at k
  held_before op b h k _ := by cases h; cases k; rfl
  held_after _ h := by cases h
  result_codes := ⟨rfl, rfl⟩
  sample_index := by decide
  memory_wf := rfl

/-- The invariant says nothing of the order of agents and of what the host does next. -/
theorem Inv_sched (h : List HostAction) (l : List Agent) : ({ sending with host := h, sched := l } : State).Inv :=
  ⟨test_witness_Inv.1, test_witness_Inv.2, test_witness_Inv.3, test_witness_Inv.4, test_witness_Inv.5, test_witness_Inv.6,
    test_witness_Inv.7, test_witness_Inv.8, test_witness_Inv.9, test_witness_Inv.10, test_witness_Inv.11,
    test_witness_Inv.12, test_witness_Inv.13, test_witness_Inv.14, test_witness_Inv.15,
    test_witness_Inv.16⟩

theorem test_witness_StepKeepsTheInvariant :
    sending.Inv ∧ stepsTo (writing 0x08 1 sending) (fun t => t.regs.status.ovr) = true ∧ (writing 0x08 1 sending).Inv ∧
      stepsTo { sending with host := [], sched := [.master] } (fun t => !t.m.held) = true ∧
      ({ sending with host := [], sched := [.master] } : State).Inv :=
  ⟨test_witness_Inv, by decide, Inv_sched _ _, by decide, Inv_sched _ _⟩

theorem test_witness_WedgedBusKeepsBusy :
    (writing 0x08 1 sending).Inv ∧ (writing 0x08 1 sending).m.busy = true ∧
      stepsTo (writing 0x08 1 sending) (fun _ => true) = true ∧ nextAgent (writing 0x08 1 sending) = .host ∧
      ({ sending with host := [], sched := [.sequencer] } : State).Inv ∧
      stepsTo { sending with host := [], sched := [.sequencer] } (fun _ => true) = true ∧
      nextAgent { sending with host := [], sched := [.sequencer] } = .sequencer :=
  ⟨Inv_sched _ _, rfl, by decide, rfl, Inv_sched _ _, by decide, rfl⟩

/-- A move of another agent, an access that is not admitted, and a bus command before INIT. -/
theorem test_witness_OnlyHostAccessesFault :
    sending.Inv ∧ sending.fault = none ∧ nextAgent { sending with host := [], sched := [.master] } ≠ .host ∧
      faultOf (step (hostNext [.write 0x06 4 0] sending)) = some (.hostAccess 0x06 4) ∧
      (hostNext [.write 0x06 4 0] sending).Inv ∧
      faultOf (step (hostNext [actCmd .readReg] State.reset)) = some (.uninitUse 0x2) :=
  ⟨test_witness_Inv, rfl, by decide, by decide, Inv_sched _ _, by decide⟩

/-- A reset comes first even where the master's command must complete: there a step can be the reset's. -/
theorem test_witness_ResetStep_required_completion :
    let s : State := { sending with env := .reference (rp [] none), waited := Config.freeWait [] + 1, sched := [.reset] }
    mustComplete s = true ∧ chosenAgent s = .reset ∧ nextAgent s = .reset :=
  ⟨(mustComplete_iff _).2 ⟨⟨_, rfl⟩, rfl, Nat.lt_succ_self _⟩, rfl, (nextAgent_reset_iff _).2 rfl⟩

theorem test_witness_ResetStep :
    ({ sending with sched := [.reset] } : State).fault = none ∧
      nextAgent ({ sending with sched := [.reset] } : State) = .reset ∧ wfAccess 0x20 4 = true ∧ wfAccess 0xFC 4 = true := by
  decide

/-! ### Whole commands -/

/-- A ready state with an environment, a host program and an order of agents. -/
def ahead (e : BusEnv) (h : List HostAction) (l : List Agent) (s : State) : State :=
  { s with env := e, host := h, sched := l }

theorem test_witness_WriteRegRunsToCompletion :
    let s :=
      ahead (.oracle [good 0, { good 0 with txAck := .nack }]) [.write 0x00 4 3]
        ([Agent.host] ++ phaseTurns 2 ++ [.sequencer]) ready
    s.ready ∧ s.env = .oracle (good 0 :: { good 0 with txAck := .nack } :: []) ∧ s.host = .write 0x00 4 0x00000003 :: [] ∧
      s.sched = [Agent.host] ++ phaseTurns 2 ++ [.sequencer] ++ [] :=
  ⟨⟨rfl, rfl, rfl, rfl, rfl, rfl⟩, rfl, rfl, rfl⟩

theorem test_witness_ReadRegRunsToCompletion :
    let s :=
      ahead (.oracle [good 0, good 0x68]) [.write 0x00 4 2] ([Agent.host] ++ phaseTurns 2 ++ [.sequencer]) ready
    s.ready ∧ s.env = .oracle (good 0 :: good 0x68 :: []) ∧ s.host = .write 0x00 4 0x00000002 :: [] ∧
      s.sched = [Agent.host] ++ phaseTurns 2 ++ [.sequencer] ++ [] ∧ (good 0x68).lostBeforeAddr = false ∧
      (good 0x68).addrAck = .ack ∧ (good 0x68).lostBeforeData = false :=
  ⟨⟨rfl, rfl, rfl, rfl, rfl, rfl⟩, rfl, rfl, rfl, rfl, rfl, rfl⟩

theorem test_witness_LoopbackReturnsTheByte :
    let s :=
      ahead (.reference (rp [(0x10, 0x01)] none)) [.write 0x00 4 3, .write 0x00 4 2]
        ([Agent.host] ++ phaseTurns 2 ++ [.sequencer] ++ ([Agent.host] ++ phaseTurns 2 ++ [.sequencer])) ready
    s.ready ∧ s.env = .reference (rp [(0x10, 0x01)] none) ∧ (rp [(0x10, 0x01)] none).addr = s.regs.sa ∧
      (rp [(0x10, 0x01)] none).nackAt = none ∧ (rp [(0x10, 0x01)] none).relatch = false ∧
      (rp [(0x10, 0x01)] none).mem.wf = true ∧
      s.host = .write 0x00 4 0x00000003 :: .write 0x00 4 0x00000002 :: [] ∧
      s.sched =
        [Agent.host] ++ phaseTurns 2 ++ [.sequencer] ++ ([Agent.host] ++ phaseTurns 2 ++ [.sequencer] ++ []) :=
  ⟨⟨rfl, rfl, rfl, rfl, rfl, rfl⟩, rfl, rfl, rfl, rfl, rfl, rfl, rfl⟩

/-- One byte and sixteen, from a register at which the pointer wraps. -/
theorem test_witness_BurstReadFillsTheBuffer :
    ∀ n ∈ [1, 16],
      let s :=
        ahead (.reference (rp [(0xFF, 0x11), (0x00, 0x22)] none)) [.write 0x00 4 4]
          ([Agent.host] ++ phaseTurns (n + 1) ++ [.sequencer])
          { ready with regs := { ready.regs with count := BitVec.ofNat 8 n, ra := 0xF8 } }
      s.ready ∧ s.env = .reference (rp [(0xFF, 0x11), (0x00, 0x22)] none) ∧ s.host = .write 0x00 4 0x00000004 :: [] ∧
        s.sched = [Agent.host] ++ phaseTurns (n + 1) ++ [.sequencer] ++ [] ∧
        (rp [(0xFF, 0x11), (0x00, 0x22)] none).addr = s.regs.sa ∧
        (rp [(0xFF, 0x11), (0x00, 0x22)] none).nackAt = none ∧ (rp [(0xFF, 0x11), (0x00, 0x22)] none).relatch = false ∧
        s.regs.count = BitVec.ofNat 8 n ∧ 1 ≤ n ∧ n ≤ 16 := by
  intro n hn
  simp only [List.mem_cons, List.not_mem_nil, or_false] at hn
  exact ⟨⟨rfl, rfl, rfl, rfl, rfl, rfl⟩, rfl, rfl, (List.append_nil _).symm, rfl, rfl, rfl, rfl, by omega, by omega⟩

/-! ### The bus environment -/

/-- The environment moves next, with this peripheral. -/
def environmentNext (p : RefPeripheral) (s : State) : State := { s with env := .reference p, sched := [.environment] }

/-- A sample with its twelve bytes alike. -/
def flatSample (b : Byte) : Sample :=
  let v : HiLo := { lo := b, hi := b }
  { acc := { x := v, y := v, z := v }, gyr := { x := v, y := v, z := v } }

/-- A sensor whose next two choices are laid down: a sample, then none. -/
def relatching : RefPeripheral := { rp [] none with relatch := true, samples := [some (flatSample 7), none] }

theorem test_witness_EnvironmentStep :
    (environmentNext relatching ready).fault = none ∧ nextAgent (environmentNext relatching ready) = .environment ∧
      (environmentNext relatching ready).env = .reference relatching ∧ relatching.relatch = true ∧
      (environmentNext relatching ready).m.held = false ∧ relatching.mem.wf = true ∧ (rp [] none).relatch = false ∧
      (environmentNext relatching holding).m.held = true ∧
      nextAgent { withScript [] ready with sched := [.environment] } = .environment ∧
      (withScript [] ready).env = .oracle [] := by decide

/-- R123: a held bus lets no sample in; a free one does, also after a reset in mid-transaction. -/
theorem test_relatch_between_transactions :
    (after (step (environmentNext relatching holding))).map (fun t => t.env) = some (.reference relatching) ∧
      (after (step (environmentNext relatching (applyReset holding)))).map
        (fun t => match t.env with
          | .reference p => p.samples
          | .oracle _ => []) = some [none] := by decide

/-- A command in work on the reference peripheral, in a state that meets the invariant. -/
theorem test_witness_WedgedBusKeepsBusy_reference :
    let s : State := { sending with env := .reference (rp [] none) }
    s.Inv ∧ s.fault = none ∧ s.env = .reference (rp [] none) ∧ s.m.busy = true :=
  ⟨{ test_witness_Inv with memory_wf := rfl }, rfl, rfl, rfl⟩

/-! ### The layout of the registers -/

theorem test_witness_RwRegistersReadBack_reads : (0x90 : Nat) ≤ 0xFC ∧ 3 < 4 ∧ (0x7C : Nat) ∈ [0x00, 0x2C, 0x48, 0x4C, 0x68, 0x6C, 0x7C] := by
  decide

theorem test_witness_RwRegistersReadBack_writes : rwOffset 0x18 = false ∧ rwOffset 0x90 = false ∧ 3 < 4 ∧ 11 / 4 ≠ 3 := by decide

end Sys2Proof.Tests
end

section
/-!
PROOFS. What the canonical memory reads after a write and after a list of writes, and the environment's own step
(00_scope R6, 40_bus_master R123).
-/

namespace Sys2Proof.Machine

/-! ### Reading a memory after one write -/

theorem Memory.read_of_wfAbove (mem : Memory) {a lo : Nat} (h : a < lo) (hw : mem.wfAbove lo = true) :
    mem.read a = Memory.unlisted := by
  induction mem generalizing lo with
  | nil => rfl
  | cons c rest ih =>
    obtain ⟨b, v⟩ := c
    simp only [Memory.wfAbove, Bool.and_eq_true, decide_eq_true_eq] at hw
    obtain ⟨⟨hb, _⟩, hrest⟩ := hw
    rw [Memory.read, if_neg (by omega), ih (by omega) hrest]

theorem Memory.read_dropEntry_same (mem : Memory) (a lo : Nat) (hw : mem.wfAbove lo = true) :
    (mem.dropEntry a).read a = Memory.unlisted := by
  induction mem generalizing lo with
  | nil => rfl
  | cons c rest ih =>
    obtain ⟨b, v⟩ := c
    simp only [Memory.wfAbove, Bool.and_eq_true] at hw
    by_cases hab : a = b
    · subst hab
      rw [Memory.dropEntry, if_pos rfl, Memory.read_of_wfAbove rest (Nat.lt_succ_self a) hw.2]
    · rw [Memory.dropEntry, if_neg hab, Memory.read, if_neg hab, ih _ hw.2]

theorem Memory.read_dropEntry_other (mem : Memory) {a b : Nat} (hba : b ≠ a) :
    (mem.dropEntry a).read b = mem.read b := by
  induction mem with
  | nil => rfl
  | cons c rest ih =>
    obtain ⟨d, v⟩ := c
    by_cases had : a = d
    · subst had
      rw [Memory.dropEntry, if_pos rfl, Memory.read, if_neg hba]
    · rw [Memory.dropEntry, if_neg had, Memory.read, Memory.read, ih]

theorem Memory.read_putEntry_same (mem : Memory) (a : Nat) (v : Byte) : (mem.putEntry a v).read a = v := by
  induction mem with
  | nil => simp [Memory.putEntry, Memory.read]
  | cons c rest ih =>
    obtain ⟨d, w⟩ := c
    unfold Memory.putEntry
    split
    · simp [Memory.read]
    · split
      · simp [Memory.read]
      · rename_i had
        rw [Memory.read, if_neg had, ih]

theorem Memory.read_putEntry_other (mem : Memory) {a b : Nat} (v : Byte) (hba : b ≠ a) :
    (mem.putEntry a v).read b = mem.read b := by
  induction mem with
  | nil => simp [Memory.putEntry, Memory.read, hba]
  | cons c rest ih =>
    obtain ⟨d, w⟩ := c
    unfold Memory.putEntry
    split
    · rw [Memory.read, if_neg hba]
    · split
      · rename_i had
        subst had
        simp [Memory.read, hba]
      · rw [Memory.read, Memory.read, ih]

/-- The canonical form is needed where `v` is the unlisted byte: once the first entry at `a` is dropped, a second one would
show. -/
theorem Memory.read_write_same (mem : Memory) (a : Nat) (v : Byte) (hw : mem.wf = true) :
    (mem.write a v).read a = v := by
  unfold Memory.write
  split
  · rename_i hv
    rw [hv, Memory.read_dropEntry_same mem a 0 hw]
  · exact Memory.read_putEntry_same mem a v

theorem Memory.read_write_other (mem : Memory) {a b : Nat} (v : Byte) (hba : b ≠ a) :
    (mem.write a v).read b = mem.read b := by
  unfold Memory.write
  split
  · exact Memory.read_dropEntry_other mem hba
  · exact Memory.read_putEntry_other mem v hba

/-! ### A list of writes -/

/-- The memory after the writes of a list, the first of them first; where an address occurs twice the later byte stays. -/
def Memory.writeAll (mem : Memory) (writes : List (Nat × Byte)) : Memory :=
  writes.foldl (fun m w => m.write w.1 w.2) mem

theorem Memory.writeAll_cons (mem : Memory) (w : Nat × Byte) (ws : List (Nat × Byte)) :
    mem.writeAll (w :: ws) = (mem.write w.1 w.2).writeAll ws := rfl

theorem Memory.read_writeAll_of_not_mem (ws : List (Nat × Byte)) (mem : Memory) {a : Nat}
    (ha : a ∉ ws.map Prod.fst) : (mem.writeAll ws).read a = mem.read a := by
  induction ws generalizing mem with
  | nil => rfl
  | cons w ws ih =>
    obtain ⟨haw, haws⟩ := not_or.mp (List.mem_cons.not.mp ha)
    rw [Memory.writeAll_cons, ih _ haws, Memory.read_write_other mem w.2 haw]

/-- A written address reads as a byte that the list gives to it. -/
theorem Memory.read_writeAll_of_mem (ws : List (Nat × Byte)) (mem : Memory) {a : Nat} (hw : mem.wf = true)
    (ha : a ∈ ws.map Prod.fst) : (a, (mem.writeAll ws).read a) ∈ ws := by
  induction ws generalizing mem with
  | nil => cases ha
  | cons w ws ih =>
    rw [Memory.writeAll_cons]
    by_cases hlater : a ∈ ws.map Prod.fst
    · exact List.mem_cons_of_mem _ (ih _ (Memory.write_wf mem w.1 w.2 hw) hlater)
    · obtain rfl : a = w.1 := (List.mem_cons.mp ha).resolve_right hlater
      rw [Memory.read_writeAll_of_not_mem ws _ hlater, Memory.read_write_same mem w.1 w.2 hw]
      exact List.mem_cons_self

/-! ### A sample latched into the register file (40_bus_master R123) -/

/-- Latching writes each byte of the sample at its address, in the order of `sampleAddrs`. -/
theorem RefPeripheral.latch_mem (p : RefPeripheral) (v : Sample) :
    (p.latch v).mem = p.mem.writeAll (sampleAddrs.zip (sampleBytes v)) := rfl

theorem map_fst_sampleAddrs_zip (v : Sample) : (sampleAddrs.zip (sampleBytes v)).map Prod.fst = sampleAddrs :=
  List.map_fst_zip (Nat.le_refl 12)

theorem RefPeripheral.latch_read_of_not_mem (p : RefPeripheral) (v : Sample) {a : Nat} (ha : a ∉ sampleAddrs) :
    (p.latch v).mem.read a = p.mem.read a := by
  rw [← map_fst_sampleAddrs_zip v] at ha
  rw [RefPeripheral.latch_mem, Memory.read_writeAll_of_not_mem _ p.mem ha]

theorem RefPeripheral.latch_read_of_mem (p : RefPeripheral) (v : Sample) {a : Nat} (hw : p.mem.wf = true)
    (ha : a ∈ sampleAddrs) : (a, (p.latch v).mem.read a) ∈ sampleAddrs.zip (sampleBytes v) := by
  rw [← map_fst_sampleAddrs_zip v] at ha
  rw [RefPeripheral.latch_mem]
  exact Memory.read_writeAll_of_mem _ p.mem hw ha

/-! ### The choice point of the reference sensor -/

/-- The choice point takes one answer, and touches nothing of the sensor but its register file. -/
theorem RefPeripheral.relatchPoint_eq (p : RefPeripheral) (n : Nat) (h : History) :
    p.relatchPoint n h = { p with mem := (p.relatchPoint n h).mem, samples := p.samples.tail } := by
  unfold RefPeripheral.relatchPoint
  cases p.samples.headD (Config.freeSample n h) <;> rfl

theorem RefPeripheral.relatchPoint_mem_of_none {p : RefPeripheral} {n : Nat} {h : History}
    (hd : p.samples.headD (Config.freeSample n h) = none) : (p.relatchPoint n h).mem = p.mem := by
  simp only [RefPeripheral.relatchPoint, hd]

theorem RefPeripheral.relatchPoint_mem_of_some {p : RefPeripheral} {n : Nat} {h : History} {v : Sample}
    (hd : p.samples.headD (Config.freeSample n h) = some v) : (p.relatchPoint n h).mem = (p.latch v).mem := by
  simp only [RefPeripheral.relatchPoint, hd]
  rfl

/-! ### The environment's move -/

theorem step_of_environment {s : State} (hf : s.fault = none) (hn : nextAgent s = .environment) :
    step s = .next (environmentMove (scheduled s)) := by
  rw [step, stepWith_of_no_fault exec s hf, hn, agentMove]

theorem environmentMove_oracle {s : State} {script : List BusAnswer} (he : s.env = .oracle script) :
    environmentMove s = s := by
  simp only [environmentMove, he]

/-- A reference peripheral that does not relatch, or may not since the bus is held, stays as it is. -/
theorem environmentMove_quiet {s : State} {p : RefPeripheral} (he : s.env = .reference p)
    (hq : p.relatch = false ∨ s.m.held = true) : environmentMove s = s := by
  have hcond : (p.relatch && !s.m.held) = false := by
    rcases hq with h | h <;> simp [h]
  simp only [environmentMove, he, hcond, Bool.false_eq_true, if_false]

theorem environmentMove_relatch {s : State} {p : RefPeripheral} (he : s.env = .reference p)
    (hr : p.relatch = true) (hh : s.m.held = false) :
    environmentMove s =
      { s with env := .reference (p.relatchPoint s.draws s.history), draws := s.draws + 1 } := by
  simp only [environmentMove, he, hr, hh, Bool.not_false, Bool.and_self, if_true]

/-- Settles O60: the environment's move is idle or one choice point, and a latch is a list of writes at the data
registers' addresses. -/
theorem environmentStep : Obligations.EnvironmentStep := by
  intro s hf hn
  have hstep := step_of_environment hf hn
  refine ⟨fun script he => ?_, fun p he => ⟨fun hq => ?_, fun hr hh hw => ?_⟩⟩
  · rw [hstep, environmentMove_oracle (s := scheduled s) he]
  · rw [hstep, environmentMove_quiet (s := scheduled s) he hq]
  · refine ⟨(p.relatchPoint (scheduled s).draws (scheduled s).history).mem, ?_,
      RefPeripheral.relatchPoint_wf p _ _ hw, ?_⟩
    · rw [hstep, environmentMove_relatch (s := scheduled s) he hr hh, ← RefPeripheral.relatchPoint_eq]
    · cases hd : p.samples.headD (Config.freeSample (scheduled s).draws (scheduled s).history) with
      | none => exact RefPeripheral.relatchPoint_mem_of_none hd
      | some v =>
        rw [RefPeripheral.relatchPoint_mem_of_some hd]
        exact ⟨fun a ha => p.latch_read_of_not_mem v ha, fun a ha => p.latch_read_of_mem v hw ha⟩

end Sys2Proof.Machine
end

section
/-!
PROOFS. The host's register window (10_state R21 to R36): what a host write can change.
-/

namespace Sys2Proof.Machine

/-- BUF after a write of BUFk (10_state R36). -/
def storeWord (buf : Vector Byte 16) (k : Nat) (v : Word) : Vector Byte 16 :=
  (((buf.setIfInBounds (4 * k) (v.extractLsb' 0 8)).setIfInBounds (4 * k + 1) (v.extractLsb' 8 8)).setIfInBounds
    (4 * k + 2) (v.extractLsb' 16 8)).setIfInBounds (4 * k + 3) (v.extractLsb' 24 8)

/-- A write of BUFk changes no field but BUF. -/
theorem setBufWord_eq (r : Regs) (k : Nat) (v : Word) :
    setBufWord r k v = { r with buf := storeWord r.buf k v } := by
  simp only [setBufWord, setBufByte, storeWord]

/-- What a host write to the RW register at `off` can change: no status, result or tilt register and not YAW, and each
other register only by a write to its own offsets. -/
structure Regs.StoredAt (r : Regs) (off : Nat) (r' : Regs) : Prop where
  status : r'.status = r.status
  rdata : r'.rdata = r.rdata
  result : r'.result = r.result
  cfgA : r'.cfgA = r.cfgA
  cfgG : r'.cfgG = r.cfgG
  tiltX : r'.tiltX = r.tiltX
  tiltY : r'.tiltY = r.tiltY
  yaw : r'.yaw = r.yaw
  sa : r'.sa ≠ r.sa → off = 0x08
  ra : r'.ra ≠ r.ra → off = 0x0C
  wdata : r'.wdata ≠ r.wdata → off = 0x10
  count : r'.count ≠ r.count → off = 0x14
  imuSa : r'.imuSa ≠ r.imuSa → off = 0x20
  accRaw : r'.accRaw ≠ r.accRaw → 0x30 ≤ off ∧ off ≤ 0x38
  gyrRaw : r'.gyrRaw ≠ r.gyrRaw → 0x3C ≤ off ∧ off ≤ 0x44
  acc : r'.acc ≠ r.acc → 0x50 ≤ off ∧ off ≤ 0x58
  gyr : r'.gyr ≠ r.gyr → 0x5C ≤ off ∧ off ≤ 0x64
  buf : r'.buf ≠ r.buf → 0x80 ≤ off ∧ off ≤ 0x8C

theorem writeRw_storedAt {r r' : Regs} {off : Nat} {v : Word} (h : writeRw r off v = some r') : r.StoredAt off r' := by
  unfold writeRw at h
  simp only [setBufWord_eq] at h
  split at h <;> cases h <;> constructor <;> simp

end Sys2Proof.Machine
end

section
/-!
PROOFS. The layout of the host's register window, read and written (10_state R21 to R36).
-/

namespace Sys2Proof.Machine

/-! ### Words and their bits -/

theorem extractLsb'_append_bytes (b : Nat → Byte) {j : Nat} (hj : j < 4) :
    (b 3 ++ b 2 ++ b 1 ++ b 0).extractLsb' (8 * j) 8 = b j := by
  refine BitVec.eq_of_getLsbD_eq fun i hi => ?_
  simp only [BitVec.getLsbD_extractLsb', BitVec.getLsbD_append, hi, decide_true, Bool.true_and]
  rcases (by omega : j = 0 ∨ j = 1 ∨ j = 2 ∨ j = 3) with rfl | rfl | rfl | rfl <;>
    simp (disch := omega) only [if_pos, if_neg] <;> congr 1 <;> omega

theorem append_extractLsb'_bytes (v : Word) :
    v.extractLsb' 24 8 ++ v.extractLsb' 16 8 ++ v.extractLsb' 8 8 ++ v.extractLsb' 0 8 = v := by
  rw [BitVec.extractLsb'_append_extractLsb'_eq_extractLsb' (start₁ := 16) (len₁ := 8) rfl,
    BitVec.extractLsb'_append_extractLsb'_eq_extractLsb' (start₁ := 8) (len₁ := 8) rfl,
    BitVec.extractLsb'_append_extractLsb'_eq_extractLsb' (start₁ := 0) (len₁ := 8) rfl]
  exact BitVec.extractLsb'_eq_self

/-- The low `n` bits of a word, as the mask that keeps them. -/
theorem setWidth_setWidth_eq_and (v : Word) {n : Nat} (hn : n ≤ 32) :
    (v.setWidth n).setWidth 32 = v &&& BitVec.ofNat 32 (2 ^ n - 1) := by
  refine BitVec.eq_of_toNat_eq ?_
  have hle : 2 ^ n ≤ 2 ^ 32 := Nat.pow_le_pow_right (by decide) hn
  rw [BitVec.toNat_setWidth_of_le hn, BitVec.toNat_setWidth, BitVec.toNat_and, BitVec.toNat_ofNat,
    Nat.mod_eq_of_lt (a := 2 ^ n - 1) (by have := Nat.two_pow_pos n; omega), Nat.and_two_pow_sub_one_eq_mod]

/-- The low half of a word, sign-extended (10_state R32). -/
theorem signExtend_setWidth_eq_ofInt (v : Word) :
    (v.setWidth 16).signExtend 32 = BitVec.ofInt 32 (v.extractLsb' 0 16).toInt := by
  rw [BitVec.setWidth_eq_extractLsb' (by decide)]
  rfl

/-! ### STATUS -/

/-- The bits of STATUS (10_state R23). -/
theorem Status.word_bits (st : Status) :
    st.word.getLsbD 0 = st.busy ∧ st.word.getLsbD 1 = st.initDone ∧ st.word.getLsbD 2 = st.ovr ∧
      st.word.getLsbD 3 = st.badCmd ∧ st.word.getLsbD 4 = st.tierInv ∧ st.word.extractLsb' 5 27 = 0 := by
  obtain ⟨busy, initDone, ovr, badCmd, tierInv⟩ := st
  revert busy initDone ovr badCmd tierInv
  decide

/-! ### BUF (10_state R36) -/

theorem readReg_buf (r : Regs) {k : Nat} (hk : k < 4) : readReg r (0x80 + 4 * k) = bufWord r k := by
  rcases (by omega : k = 0 ∨ k = 1 ∨ k = 2 ∨ k = 3) with rfl | rfl | rfl | rfl <;> rfl

theorem writeRw_buf (r : Regs) {k : Nat} (hk : k < 4) (v : Word) :
    writeRw r (0x80 + 4 * k) v = some { r with buf := storeWord r.buf k v } := by
  rw [← setBufWord_eq]
  rcases (by omega : k = 0 ∨ k = 1 ∨ k = 2 ∨ k = 3) with rfl | rfl | rfl | rfl <;> rfl

theorem bufByte_getElem? (r : Regs) {i : Nat} (hi : i < 16) : r.buf[i]? = some (bufByte r i) := by
  simp [bufByte, hi]

theorem bufWord_extractLsb' (r : Regs) (k : Nat) {j : Nat} (hj : j < 4) :
    (bufWord r k).extractLsb' (8 * j) 8 = bufByte r (4 * k + j) :=
  extractLsb'_append_bytes (fun j => bufByte r (4 * k + j)) hj

theorem bufWord_congr {r r' : Regs} {k : Nat} (h : ∀ j, j < 4 → r'.buf[4 * k + j]? = r.buf[4 * k + j]?) :
    bufWord r' k = bufWord r k := by
  have h0 : r'.buf[4 * k]? = r.buf[4 * k]? := h 0 (by decide)
  simp only [bufWord, bufByte, h0, h 1 (by decide), h 2 (by decide), h 3 (by decide)]

theorem storeWord_getElem? (buf : Vector Byte 16) {k : Nat} (hk : k < 4) (v : Word) (i : Nat) :
    (storeWord buf k v)[i]? = if i / 4 = k then some (v.extractLsb' (8 * (i % 4)) 8) else buf[i]? := by
  unfold storeWord
  simp only [Vector.getElem?_setIfInBounds]
  by_cases h : i / 4 = k
  · rw [if_pos h]
    rcases (by omega : i = 4 * k ∨ i = 4 * k + 1 ∨ i = 4 * k + 2 ∨ i = 4 * k + 3) with rfl | rfl | rfl | rfl <;>
      simp [Nat.add_mod]
    all_goals omega
  · rw [if_neg h, if_neg (by omega), if_neg (by omega), if_neg (by omega), if_neg (by omega)]

theorem bufWord_storeWord_same (r : Regs) {k : Nat} (hk : k < 4) (v : Word) :
    bufWord { r with buf := storeWord r.buf k v } k = v := by
  have hbyte (j : Nat) (hj : j < 4) :
      bufByte { r with buf := storeWord r.buf k v } (4 * k + j) = v.extractLsb' (8 * j) 8 := by
    unfold bufByte
    rw [storeWord_getElem? r.buf hk, if_pos (by omega), show (4 * k + j) % 4 = j by omega]
    rfl
  unfold bufWord
  rw [hbyte 3 (by decide), hbyte 2 (by decide), hbyte 1 (by decide), show 4 * k = 4 * k + 0 from rfl,
    hbyte 0 (by decide)]
  exact append_extractLsb'_bytes v

/-! ### The other offsets -/

/-- CMD and the reserved offsets (10_state R21, R22). -/
theorem readReg_reserved (r : Regs) {off : Nat}
    (h : off ∈ [0x00, 0x2C, 0x48, 0x4C, 0x68, 0x6C, 0x7C] ∨ 0x90 ≤ off) : readReg r off = 0 := by
  unfold readReg
  split <;> simp at h
  rfl

/-- An offset that is no RW register's takes no write. -/
theorem writeRw_eq_none (r : Regs) {off : Nat} (h : rwOffset off = false) (v : Word) : writeRw r off v = none := by
  unfold writeRw
  split <;> simp [rwOffset] at h
  rfl

/-- Below BUF, each offset reads a field of its own: in the table of writes against the table of reads, only the offset
written meets its own field. -/
theorem readReg_writeRw_low {r r' : Regs} {off other : Nat} {v : Word} (h : writeRw r off v = some r')
    (hoff : off < 0x80) (hother : other < 0x80) (hne : other ≠ off) : readReg r' other = readReg r other := by
  unfold writeRw at h
  split at h <;> cases h <;> simp at hoff <;> unfold readReg <;> split <;> simp at hne hother ⊢

/-- The RW registers by the width of their fields (10_state R24 to R36). -/
theorem rwOffset_cases {off : Nat} (h : rwOffset off = true) :
    (off = 0x08 ∨ off = 0x20) ∨ (off = 0x0C ∨ off = 0x10 ∨ off = 0x14) ∨
      (off = 0x30 ∨ off = 0x34 ∨ off = 0x38 ∨ off = 0x3C ∨ off = 0x40 ∨ off = 0x44) ∨
      (off = 0x50 ∨ off = 0x54 ∨ off = 0x58 ∨ off = 0x5C ∨ off = 0x60 ∨ off = 0x64) ∨
      ∃ k, k < 4 ∧ off = 0x80 + 4 * k := by
  simp [rwOffset] at h
  by_cases hlow : off < 0x80
  · omega
  · obtain rfl | rfl | rfl | rfl : off = 0x80 + 4 * 0 ∨ off = 0x80 + 4 * 1 ∨ off = 0x80 + 4 * 2 ∨
        off = 0x80 + 4 * 3 := by omega
    all_goals exact Or.inr (Or.inr (Or.inr (Or.inr ⟨_, by decide, rfl⟩)))

theorem keptBits_buf {k : Nat} (v : Word) : keptBits (0x80 + 4 * k) v = v := by
  unfold keptBits
  rw [if_neg (by omega), if_neg (by omega), if_neg (by omega)]

/-- An RW register reads back the bits it keeps. -/
theorem readReg_writeRw_same (r : Regs) {off : Nat} (h : rwOffset off = true) (v : Word) :
    ∃ r', writeRw r off v = some r' ∧ readReg r' off = keptBits off v := by
  rcases rwOffset_cases h with h | h | h | h | ⟨k, hk, rfl⟩
  · rcases h with rfl | rfl <;> exact ⟨_, rfl, setWidth_setWidth_eq_and v (n := 7) (by decide)⟩
  · rcases h with rfl | rfl | rfl <;> exact ⟨_, rfl, setWidth_setWidth_eq_and v (n := 8) (by decide)⟩
  · rcases h with rfl | rfl | rfl | rfl | rfl | rfl <;> exact ⟨_, rfl, signExtend_setWidth_eq_ofInt v⟩
  · rcases h with rfl | rfl | rfl | rfl | rfl | rfl <;> exact ⟨_, rfl, rfl⟩
  · exact ⟨_, writeRw_buf r hk v, by rw [readReg_buf _ hk, bufWord_storeWord_same r hk, keptBits_buf]⟩

/-- BUF is read at its own offsets alone. -/
theorem readReg_setBuf_low (r : Regs) (buf : Vector Byte 16) {off : Nat} (h : off < 0x80) :
    readReg { r with buf := buf } off = readReg r off := by
  unfold readReg
  split <;> simp at h ⊢

/-- From BUF on, an offset reads one word of BUF or 0. -/
theorem readReg_high_congr {r r' : Regs} {off : Nat} (hoff : 0x80 ≤ off) (halign : off % 4 = 0)
    (hbuf : ∀ k j, k < 4 → j < 4 → off = 0x80 + 4 * k → r'.buf[4 * k + j]? = r.buf[4 * k + j]?) :
    readReg r' off = readReg r off := by
  by_cases hres : 0x90 ≤ off
  · rw [readReg_reserved r' (Or.inr hres), readReg_reserved r (Or.inr hres)]
  · obtain ⟨k, hk, rfl⟩ : ∃ k, k < 4 ∧ off = 0x80 + 4 * k := ⟨(off - 0x80) / 4, by omega, by omega⟩
    rw [readReg_buf r' hk, readReg_buf r hk]
    exact bufWord_congr fun j hj => hbuf k j hk hj rfl

/-- No other offset of the window reads differently after a write. -/
theorem readReg_writeRw_other {r r' : Regs} {off other : Nat} {v : Word} (h : writeRw r off v = some r')
    (hrw : rwOffset off = true) (hother : other % 4 = 0) (hne : other ≠ off) : readReg r' other = readReg r other := by
  by_cases hoff : off < 0x80
  · by_cases hlow : other < 0x80
    · exact readReg_writeRw_low h hoff hlow hne
    · have hbuf : r'.buf = r.buf := by
        by_contra hc
        exact absurd ((writeRw_storedAt h).buf hc).1 (by omega)
      exact readReg_high_congr (by omega) hother fun _ _ _ _ _ => by rw [hbuf]
  · obtain ⟨k, hk, rfl⟩ : ∃ k, k < 4 ∧ off = 0x80 + 4 * k := by
      rcases rwOffset_cases hrw with hc | hc | hc | hc | hc
      case inr.inr.inr.inr => exact hc
      all_goals omega
    rw [writeRw_buf r hk v] at h
    cases h
    by_cases hlow : other < 0x80
    · exact readReg_setBuf_low r _ hlow
    · refine readReg_high_congr (by omega) hother fun k' j _ hj hk' => ?_
      rw [storeWord_getElem? r.buf hk, if_neg (by omega)]

/-- Settles O8: reads field by field, writes field by field, and from these the read-back of every RW register. -/
theorem rwRegistersReadBack : Obligations.RwRegistersReadBack := by
  refine ⟨fun r => ⟨r.status.word_bits, fun off h => readReg_reserved r (h.imp_right And.left), ?_, ?_, ?_, ?_⟩,
    fun r v => ⟨fun off h => writeRw_eq_none r h v, ?_, ?_, ?_, ?_⟩, fun r off v h => ?_⟩
  · refine ⟨?_, ?_, ?_, ?_, ?_, ?_, ?_, ?_, ?_⟩ <;> exact BitVec.toNat_setWidth_of_le (by decide)
  · refine ⟨?_, ?_, ?_, ?_, ?_, ?_⟩ <;> exact BitVec.toInt_signExtend_of_le (by decide)
  · exact ⟨rfl, rfl, rfl, rfl, rfl, rfl, rfl, rfl, rfl⟩
  · intro k j hk hj
    rw [readReg_buf r hk, bufWord_extractLsb' r k hj, bufByte_getElem? r (by omega)]
  · rw [← BitVec.setWidth_eq_extractLsb' (w := 7) (by decide), ← BitVec.setWidth_eq_extractLsb' (w := 8) (by decide)]
    exact ⟨rfl, rfl, rfl, rfl, rfl⟩
  · rw [← BitVec.setWidth_eq_extractLsb' (w := 16) (by decide)]
    exact ⟨rfl, rfl, rfl, rfl, rfl, rfl⟩
  · exact ⟨rfl, rfl, rfl, rfl, rfl, rfl⟩
  · intro k hk
    refine ⟨_, writeRw_buf r hk v, fun j hj => ?_, fun i hi => ?_⟩
    · rw [storeWord_getElem? r.buf hk, if_pos (by omega), show (4 * k + j) % 4 = j by omega]
    · rw [storeWord_getElem? r.buf hk, if_neg hi]
  · obtain ⟨r', hw, hread⟩ := readReg_writeRw_same r h v
    refine ⟨r', hw, hread, fun other ho hne => readReg_writeRw_other hw h ?_ hne, (writeRw_storedAt hw).status,
      (writeRw_storedAt hw).yaw⟩
    simp [wfAccess] at ho
    exact ho.1

end Sys2Proof.Machine
end

section
/-!
PROOFS. What one step of a running command is, phase by phase: each phase issues the master command that `phaseCode`
names and is judged by `phaseJudge`; COMPUTE goes on to DONE; DONE returns the results (41_engine_ops R140 to R143).
-/

namespace Sys2Proof.Machine

/-! ### The body of a running command -/

/-- The sequencer's step of a running command, by the command's own rule. -/
def commandBody (op : HostCmd) : State → Result :=
  match op with
  | .init => initBody
  | .readReg => readRegBody
  | .writeReg => writeRegBody
  | .burstRead => burstReadBody
  | .burstWrite => burstWriteBody
  | .readAccel => sampleBody Config.sensorMap.accData (fun v r => { r with accRaw := v })
  | .readGyro => sampleBody Config.sensorMap.gyrData (fun v r => { r with gyrRaw := v })
  | .scaleAccel => scaleBody Config.sensorMap.accCfg (scaleAccelResults Config.tierOf Config.scaleEval)
  | .scaleGyro =>
    scaleBody (gyroCfgReg gyroTierSource Config.sensorMap) (scaleGyroResults Config.tierOf Config.scaleEval)
  | .estimate => estimateBody

/-- A command's acceptance into its first phase; a burst checks COUNT before (41_engine_ops R142, 30_encoding R84). -/
def commandStart (op : HostCmd) : State → Result :=
  match op with
  | .init => accept .init .compute
  | .estimate => accept .estimate .compute
  | .burstRead => burstStart .burstRead
  | .burstWrite => burstStart .burstWrite
  | op => accept op .startAddrW

theorem exec_hostCmd (op : HostCmd) (s : State) :
    exec op.instr s = runCommand op (commandStart op) (commandBody op) s := by
  cases op <;> rfl

theorem exec_of_running {op : HostCmd} {s : State} (hb : s.regs.status.busy = true) (ho : s.seq.op = some op) :
    exec op.instr s = commandBody op s := by
  simp [exec_hostCmd, runCommand, hb, ho]

theorem exec_of_idle (op : HostCmd) {s : State} (hb : s.regs.status.busy = false) :
    exec op.instr s = commandStart op s := by
  simp [exec_hostCmd, runCommand, hb]

/-! ### Phases with a master command -/

/-- How the phase `p` of a command is judged once its master command has completed (41_engine_ops R146 to R161,
42_sensor_io R182, 43_estimator R211). -/
def phaseJudge (op : HostCmd) (p : Phase) : State → State :=
  match p, op with
  | .startAddrW, .writeReg => unlessError (goto .sendByte)
  | .startAddrW, .burstWrite => unlessError (goto .sendByte)
  | .startAddrW, .burstRead => unlessError (goto .startAddrR)
  | .startAddrW, _ => goto .startAddrR
  | .startAddrR, .burstRead => received
  | .startAddrR, .readAccel => fun s => gathered (s.setSeq { s.seq with rx := !s.m.error })
  | .startAddrR, .readGyro => fun s => gathered (s.setSeq { s.seq with rx := !s.m.error })
  | .startAddrR, .readReg => fun s => goto .done (s.setSeq { s.seq with rx := !s.m.error })
  | .startAddrR, _ => fun s => goto .compute (s.setSeq { s.seq with rx := !s.m.error })
  | .recvByte, _ => received
  | .sendByte, .writeReg => unlessError (goto .done)
  | .sendByte, _ => unlessError (nextByte .sendByte)
  | _, _ => goto .done

/-- A phase that has a master command is one `phaseStep` with it; its settings reach m.SA and m.DR alone. -/
theorem commandBody_of_phaseCode {op : HostCmd} {s : State} {c : BitVec 4} (hp : phaseOf op s.seq.phase = true)
    (hc : phaseCode op s.seq = some c) :
    ∃ f : State → State, f s = s.setMaster { s.m with sa := (f s).m.sa, dr := (f s).m.dr } ∧
      commandBody op s = phaseStep f c (phaseJudge op s.seq.phase) s := by
  cases op <;> cases hq : s.seq.phase <;> simp [hq, phaseOf] at hp <;> simp [hq, phaseCode] at hc <;> subst hc <;>
    simp only [commandBody, readRegBody, writeRegBody, burstReadBody, burstWriteBody, sampleBody, scaleBody,
      addressPhase, rdtxWrite, rdtxRead, stopAbortStep, hq] <;>
    exact ⟨_, by rfl, rfl⟩

/-- COMPUTE is one step to DONE; INIT's also enables the master (41_engine_ops R145, log entry 5). -/
theorem commandBody_compute {op : HostCmd} {s : State} (hp : phaseOf op .compute = true) (hq : s.seq.phase = .compute) :
    (op ≠ .init ∧ commandBody op s = .next (goto .done s)) ∨
      (op = .init ∧ commandBody op s = .next (goto .done
        { s with m := { s.m with en := true, tpr := Config.tpr }, platform := some Config.platform })) := by
  cases op <;> simp [phaseOf] at hp <;>
    simp [commandBody, initBody, scaleBody, estimateBody, hq]

/-- DONE returns the command's results; what free values it has drawn is the draw counter's (41_engine_ops R143). -/
theorem commandBody_done {op : HostCmd} {s : State} (hq : s.seq.phase = .done) :
    ∃ n, commandBody op s = .next (({ s with draws := n } : State).returned (doneRegs op s)) := by
  cases op <;>
    simp only [commandBody, initBody, readRegBody, writeRegBody, burstReadBody, burstWriteBody, sampleBody, scaleBody,
      estimateBody, resultDone, hq, rdtxTaken] <;>
    cases s.seq.rx <;> exact ⟨_, rfl⟩

/-! ### The results of a command -/

/-- What the DONE step of `op` can change: of every register and flag, which command writes it (10_state R43). -/
structure Regs.DoneBy (r : Regs) (op : HostCmd) (r' : Regs) : Prop where
  initDone : r'.status.initDone ≠ r.status.initDone → op = .init ∧ r'.status.initDone = true
  ovr : r'.status.ovr = r.status.ovr
  badCmd : r'.status.badCmd = r.status.badCmd
  tierInv : r'.status.tierInv ≠ r.status.tierInv → op = .scaleAccel ∨ op = .scaleGyro
  sa : r'.sa = r.sa
  ra : r'.ra = r.ra
  wdata : r'.wdata = r.wdata
  count : r'.count = r.count
  imuSa : r'.imuSa = r.imuSa
  rdata : r'.rdata ≠ r.rdata → op = .readReg
  result : r'.result ≠ r.result → op = .writeReg ∨ op = .burstRead ∨ op = .burstWrite
  cfgA : r'.cfgA ≠ r.cfgA → op = .scaleAccel
  cfgG : r'.cfgG ≠ r.cfgG → op = .scaleGyro
  accRaw : r'.accRaw ≠ r.accRaw → op = .readAccel
  gyrRaw : r'.gyrRaw ≠ r.gyrRaw → op = .readGyro
  acc : r'.acc ≠ r.acc → op = .scaleAccel
  gyr : r'.gyr ≠ r.gyr → op = .scaleGyro
  tiltX : r'.tiltX ≠ r.tiltX → op = .estimate
  tiltY : r'.tiltY ≠ r.tiltY → op = .estimate
  yaw : r'.yaw ≠ r.yaw → op = .estimate
  buf : r'.buf = r.buf

theorem doneRegs_doneBy (op : HostCmd) (s : State) : s.regs.DoneBy op (doneRegs op s) := by
  cases op
  case scaleAccel =>
    simp only [doneRegs, scaleAccelResults]
    split <;> constructor <;> simp
  case scaleGyro =>
    simp only [doneRegs, scaleGyroResults]
    split <;> constructor <;> simp
  all_goals constructor <;> simp [doneRegs, estimateResults]

end Sys2Proof.Machine
end

section
/-!
PROOFS. How a master command leaves the bus and the error flags when it completes (40_bus_master R105, R113, R114).
-/

namespace Sys2Proof.Machine

theorem errorFlagsAgree_clear {m : Master} (hf : errorFlagsAgree m = true) (he : m.error = false) :
    m.adrack = false ∧ m.datack = false ∧ m.arblst = false := by
  simp [errorFlagsAgree, he] at hf
  obtain ⟨⟨⟨⟨⟨hadr, hdat⟩, harb⟩, _⟩, _⟩, _⟩ := hf
  exact ⟨hadr, hdat, harb⟩

/-- After any part of a command: arbitration lost exactly with ARBLST, the bus held unless it is lost, and the error
flags in agreement. -/
structure Progress.Sound (p : Progress) : Prop where
  lost_eq : p.lost = p.m.arblst
  held_eq : p.m.held = !p.m.arblst
  flags : errorFlagsAgree p.m = true

/-- The START part, or a bus that is held already, puts a command without errors on the bus; it goes on only without an
error. -/
theorem startPart_sound (a : BusAnswer) (c : BitVec 4) {m : Master} (hf : errorFlagsAgree m = true)
    (he : m.error = false) (hs : mcmdStartBit c = true ∨ m.held = true) :
    (startPart a c m).Sound ∧ ((startPart a c m).more = true → (startPart a c m).m.error = false) := by
  obtain ⟨hadr, hdat, harb⟩ := errorFlagsAgree_clear hf he
  cases hc : mcmdStartBit c
  · rw [startPart_skip a c m hc]
    exact ⟨⟨harb.symm, by simpa [hc, harb] using hs, hf⟩, fun _ => he⟩
  · cases hl : a.lostBeforeAddr
    · cases hk : a.addrAck
      · rw [startPart_ack a c m hc hl hk]
        exact ⟨⟨harb.symm, by simp [Master.addressed, harb], hf⟩, fun _ => he⟩
      · rw [startPart_nack a c m hc hl hk]
        exact ⟨⟨harb.symm, by simp [Master.addressed, harb],
          by simp [errorFlagsAgree, Master.addressed, hdat, harb]⟩, nofun⟩
    · rw [startPart_lost a c m hc hl]
      exact ⟨⟨rfl, rfl, by simp [errorFlagsAgree, Master.afterLoss, hadr, hdat]⟩, nofun⟩

theorem Master.afterByte_flags (a : BusAnswer) {m : Master} (hf : errorFlagsAgree m = true) (he : m.error = false) :
    errorFlagsAgree (m.afterByte a) = true ∧ (m.afterByte a).arblst = m.arblst ∧ (m.afterByte a).held = m.held := by
  obtain ⟨hadr, hdat, harb⟩ := errorFlagsAgree_clear hf he
  unfold Master.afterByte
  split
  · exact ⟨hf, rfl, rfl⟩
  · split
    · exact ⟨by simp [errorFlagsAgree, hadr, harb], rfl, rfl⟩
    · exact ⟨hf, rfl, rfl⟩

theorem runPart_sound (a : BusAnswer) (c : BitVec 4) {p : Progress} (hp : p.Sound)
    (hgo : p.more = true → p.m.error = false) : (runPart a c p).Sound := by
  by_cases hskip : mcmdRunBit c = false ∨ p.more = false
  · rwa [runPart_skip a c p hskip]
  · simp only [not_or, Bool.not_eq_false] at hskip
    obtain ⟨hrun, hmore⟩ := hskip
    obtain ⟨hadr, hdat, harb⟩ := errorFlagsAgree_clear hp.flags (hgo hmore)
    cases hl : a.lostBeforeData
    · rw [runPart_byte a c p hrun hmore hl]
      obtain ⟨hf, harb', hheld⟩ := Master.afterByte_flags a hp.flags (hgo hmore)
      exact ⟨hp.lost_eq.trans harb'.symm, by simp only [hheld, harb', hp.held_eq], hf⟩
    · rw [runPart_lost a c p hrun hmore hl]
      exact ⟨rfl, rfl, by simp [errorFlagsAgree, Master.afterLoss, hadr, hdat]⟩

/-- The tail gives the bus up for a STOP, and does not touch the error flags. -/
theorem stopPart_held (c : BitVec 4) {p : Progress} (hp : p.Sound) :
    (stopPart c p).m.held = (!mcmdStopBit c && !(stopPart c p).m.arblst) ∧
      errorFlagsAgree (stopPart c p).m = true := by
  have hlost := hp.lost_eq
  have hheld := hp.held_eq
  cases hs : mcmdStopBit c
  · rw [stopPart_skip c p (Or.inl hs)]
    exact ⟨by simpa using hheld, hp.flags⟩
  · cases hl : p.lost
    · rw [stopPart_stop c p hs hl (Or.inr (by rw [hheld, ← hlost, hl]; rfl))]
      exact ⟨by simp, hp.flags⟩
    · rw [stopPart_skip c p (Or.inr (Or.inl hl))]
      exact ⟨by simp [hheld, ← hlost, hl], hp.flags⟩

/-- A completed command that began a transaction or continued one: the bus is held unless the command had STOP or lost
arbitration, and the error flags agree (40_bus_master R114). -/
theorem masterAfter_held (a : BusAnswer) (c : BitVec 4) {m : Master} (hf : errorFlagsAgree m = true)
    (he : m.error = false) (hs : mcmdStartBit c = true ∨ m.held = true) :
    (masterAfter a c m).held = (!mcmdStopBit c && !(masterAfter a c m).arblst) ∧
      errorFlagsAgree (masterAfter a c m) = true := by
  obtain ⟨hstart, hgo⟩ := startPart_sound a c hf he hs
  exact stopPart_held c (runPart_sound a c hstart hgo)

end Sys2Proof.Machine
end

section
/-!
PROOFS. The invariant, kept by each kind of change a step can make: none that it speaks of, acceptance, an issue, a
completion of the master, the way to the next phase, the return of a command, and reset (41_engine_ops R140 to R153,
40_bus_master R103 to R105, 70_reset R270).
-/

namespace Sys2Proof.Machine

/-! ### Tables of the invariant -/

theorem phaseCode_issued (op : HostCmd) (q : Seq) (b : Bool) :
    phaseCode op { q with issued := b } = phaseCode op q := rfl

theorem burstIndexOk_issued (q : Seq) (b : Bool) : burstIndexOk { q with issued := b } = burstIndexOk q := rfl

/-- A phase's command begins a transaction, or continues one on a bus that is held. -/
theorem phaseCode_start_or_held {op : HostCmd} {q : Seq} {c : BitVec 4} (hc : phaseCode op q = some c) :
    mcmdStartBit c = true ∨ heldBefore op q.phase = some true := by
  cases hq : q.phase <;> simp only [phaseCode, hq] at hc
  case startAddrW => cases hc; exact Or.inl rfl
  case startAddrR =>
    by_cases hop : op = .burstRead
    · exact Or.inr (if_pos hop)
    · rw [if_neg hop] at hc
      cases hc; exact Or.inl rfl
  case recvByte | sendByte | stopAbort => exact Or.inr rfl
  case compute | done | idle => cases hc

theorem phaseOf_firstPhase (op : HostCmd) (n : Byte) : phaseOf op (firstPhase op n) = true := by
  by_cases hn : n = 0 <;> cases op <;> simp only [firstPhase, hn] <;> rfl

theorem heldBefore_firstPhase (op : HostCmd) (n : Byte) : heldBefore op (firstPhase op n) = some false := by
  unfold firstPhase
  split
  · rfl
  · split <;> rfl

theorem firstPhase_init (n : Byte) : firstPhase .init n = .compute := by simp [firstPhase]

theorem burstIndexOk_iff {q : Seq} :
    burstIndexOk q = true ↔ q.n.toNat ≤ bufLen ∧
      (q.phase = .startAddrW ∨ q.phase = .startAddrR → q.i = 0 ∧ 0 < q.n.toNat) ∧
      (q.phase = .recvByte → 0 < q.i.toNat ∧ q.i.toNat < q.n.toNat) ∧
      (q.phase = .sendByte → q.i.toNat < q.n.toNat) := by
  cases hq : q.phase <;> simp [burstIndexOk, hq]

theorem firstPhase_burst {op : HostCmd} (hop : op = .burstRead ∨ op = .burstWrite) (n : Byte) :
    firstPhase op n = if n = 0 then .done else .startAddrW := by
  by_cases h0 : n = 0 <;> rcases hop with rfl | rfl <;> simp [firstPhase, h0]

/-- A burst that is accepted begins at index 0, and has a byte to do unless it goes straight to DONE. -/
theorem burstIndexOk_firstPhase {op : HostCmd} (hop : op = .burstRead ∨ op = .burstWrite) {q : Seq}
    (hn : q.n.toNat ≤ bufLen) (hi : q.i = 0) (hq : q.phase = firstPhase op q.n) : burstIndexOk q = true := by
  rw [firstPhase_burst hop] at hq
  by_cases h0 : q.n = 0
  · rw [if_pos h0] at hq
    simp [burstIndexOk, hq, hn]
  · rw [if_neg h0] at hq
    have hpos : 0 < q.n.toNat := by bv_omega
    simp [burstIndexOk, hq, hn, hi, hpos]

/-! ### Changes outside the command -/

/-- A step that leaves the master, the sequencer, BUSY, INIT_DONE and RESULT, and while a command runs its arguments. -/
theorem State.Inv.of_frame {s t : State} (hI : s.Inv) (hm : t.m = s.m) (hq : t.seq = s.seq)
    (hbusy : t.regs.status.busy = s.regs.status.busy) (hinit : t.regs.status.initDone = s.regs.status.initDone)
    (hres : t.regs.result = s.regs.result)
    (harg : s.seq.op ≠ none →
      t.regs.sa = s.regs.sa ∧ t.regs.ra = s.regs.ra ∧ t.regs.wdata = s.regs.wdata ∧ t.regs.count = s.regs.count)
    (henv : envMemoryWf t.env = true) : t.Inv where
  busy_iff_op := by rw [hbusy, hq]; exact hI.busy_iff_op
  idle_bus := by rw [hm, hq]; exact hI.idle_bus
  phase_of_op := by rw [hq]; exact hI.phase_of_op
  latched_agree := by
    rw [hq]
    intro ho
    obtain ⟨hsa, hra, hwd, hn⟩ := harg ho
    rw [hsa, hra, hwd, hn]
    exact hI.latched_agree ho
  init_enables := by rw [hinit, hm]; exact hI.init_enables
  init_done_enabled := by rw [hm, hq]; exact hI.init_done_enabled
  bus_after_init := by rw [hinit, hq]; exact hI.bus_after_init
  error_flags := by rw [hm]; exact hI.error_flags
  busy_issued := by rw [hm, hq]; exact hI.busy_issued
  issued_code := by rw [hm, hq]; exact hI.issued_code
  burst_index := by rw [hq]; exact hI.burst_index
  held_before := by rw [hm, hq]; exact hI.held_before
  held_after := by rw [hm, hq]; exact hI.held_after
  result_codes := by rw [hres, hq]; exact hI.result_codes
  sample_index := by rw [hq]; exact hI.sample_index
  memory_wf := henv

theorem scheduled_inv {s : State} (hI : s.Inv) : (scheduled s).Inv :=
  hI.of_frame rfl rfl rfl rfl rfl (fun _ => ⟨rfl, rfl, rfl, rfl⟩) hI.memory_wf

theorem environmentMove_inv {s : State} (hI : s.Inv) : (environmentMove s).Inv := by
  rcases environmentMove_cases s with h | ⟨p, hp, _, _, h⟩
  · rwa [h]
  · rw [h]
    have hwf : p.mem.wf = true := by simpa [hp, envMemoryWf] using hI.memory_wf
    exact hI.of_frame rfl rfl rfl rfl rfl (fun _ => ⟨rfl, rfl, rfl, rfl⟩) (RefPeripheral.relatchPoint_wf p _ _ hwf)

theorem applyReset_inv {s : State} (hI : s.Inv) : (applyReset s).Inv where
  busy_iff_op := rfl
  idle_bus _ := ⟨rfl, rfl, rfl, rfl⟩
  phase_of_op := nofun
  latched_agree h := absurd rfl h
  init_enables := nofun
  init_done_enabled := nofun
  bus_after_init := nofun
  error_flags := rfl
  busy_issued := nofun
  issued_code := nofun
  burst_index := nofun
  held_before := nofun
  held_after := nofun
  result_codes := ⟨rfl, rfl⟩
  sample_index := Nat.zero_le _
  memory_wf := hI.memory_wf

/-! ### Acceptance and return -/

/-- Acceptance, after the checks of R142 and of R84's COUNT. -/
theorem accepted_inv {s : State} (hI : s.Inv) (op : HostCmd) (hb : s.regs.status.busy = false)
    (hbus : op.usesBus = true → s.regs.status.initDone = true)
    (hcount : op = .burstRead ∨ op = .burstWrite → s.regs.count.toNat ≤ bufLen) : (s.accepted op).Inv := by
  have hnone : s.seq.op = none := by simpa [hb] using hI.busy_iff_op
  obtain ⟨_, _, hmbusy, hheld⟩ := hI.idle_bus hnone
  have hop {op'} (h : (s.accepted op).seq.op = some op') : op' = op := by cases h; rfl
  exact {
    busy_iff_op := rfl
    idle_bus := nofun
    phase_of_op := by intro op' h; rw [hop h]; exact phaseOf_firstPhase op _
    latched_agree := fun _ => ⟨rfl, rfl, rfl, rfl⟩
    init_enables := hI.init_enables
    init_done_enabled := by
      intro h hd
      rw [← hop h] at hd
      exact absurd ((firstPhase_init s.regs.count).symm.trans hd) nofun
    bus_after_init := by intro op' h; rw [hop h]; exact hbus
    error_flags := hI.error_flags
    busy_issued := by intro h; exact absurd (h.symm.trans hmbusy) nofun
    issued_code := nofun
    burst_index := by
      intro op' h hburst
      rw [hop h] at hburst
      exact burstIndexOk_firstPhase hburst (hcount hburst) rfl rfl
    held_before := by
      intro op' b h hh _
      rw [hop h] at hh
      exact hheld.trans (Option.some.inj ((heldBefore_firstPhase op _).symm.trans hh))
    held_after := nofun
    result_codes := ⟨hI.result_codes.1, rfl⟩
    sample_index := Nat.zero_le _
    memory_wf := hI.memory_wf }

/-- The DONE step, with results that set INIT_DONE only on an enabled master and RESULT to a code of R153. -/
theorem returned_inv {s : State} (hI : s.Inv) {op : HostCmd} (ho : s.seq.op = some op)
    (hq : s.seq.phase = .done) {r : Regs} (hinit : r.status.initDone = true → s.m.en = true)
    (hres : resultCode r.result = true) : (s.returned r).Inv := by
  have hissued : s.seq.issued = false := by
    by_contra h
    have hc := hI.issued_code op ho (by simpa using h)
    simp [phaseCode, hq] at hc
  have hmbusy : s.m.busy = false := by
    by_contra h
    exact absurd ((hI.busy_issued (by simpa using h)).1.symm.trans hissued) nofun
  have hheld : s.m.held = false := hI.held_before op false ho (by rw [hq]; rfl) (Or.inl hissued)
  exact {
    busy_iff_op := rfl
    idle_bus := fun _ => ⟨rfl, rfl, hmbusy, hheld⟩
    phase_of_op := nofun
    latched_agree := fun h => absurd rfl h
    init_enables := hinit
    init_done_enabled := nofun
    bus_after_init := nofun
    error_flags := hI.error_flags
    busy_issued := by intro h; exact absurd (h.symm.trans hmbusy) nofun
    issued_code := nofun
    burst_index := nofun
    held_before := nofun
    held_after := nofun
    result_codes := ⟨hres, hI.result_codes.2⟩
    sample_index := hI.sample_index
    memory_wf := hI.memory_wf }

/-! ### Master commands -/

/-- A phase's issue (40_bus_master R103), after the phase's settings of m.SA and m.DR. -/
theorem phaseIssued_inv {s : State} (hI : s.Inv) {op : HostCmd} (ho : s.seq.op = some op)
    (hi : s.seq.issued = false) {c : BitVec 4} (hc : phaseCode op s.seq = some c) (a d : Byte) :
    (s.phaseIssued { s.m with sa := a, dr := d } c).Inv where
  busy_iff_op := hI.busy_iff_op
  idle_bus h := by cases ho.symm.trans h
  phase_of_op := hI.phase_of_op
  latched_agree := hI.latched_agree
  init_enables := hI.init_enables
  init_done_enabled := hI.init_done_enabled
  bus_after_init := hI.bus_after_init
  error_flags := rfl
  busy_issued _ := ⟨rfl, rfl⟩
  issued_code op' h _ := by cases ho.symm.trans h; exact hc
  burst_index := hI.burst_index
  held_before op' b h hh _ := hI.held_before op' b h hh (Or.inl hi)
  held_after := nofun
  result_codes := hI.result_codes
  sample_index := hI.sample_index
  memory_wf := hI.memory_wf

theorem envMemoryWf_after {env : BusEnv} (events : List WireEvent) (h : envMemoryWf env = true) :
    envMemoryWf (env.after events) = true := by
  cases env with
  | oracle script => rfl
  | reference p => exact RefPeripheral.foldl_onEvent_wf events p h

/-- The completion of the command in work (40_bus_master R104). -/
theorem masterStep_inv {s : State} (hI : s.Inv) (hb : s.m.busy = true) : (masterStep s.m.cmd s).Inv := by
  obtain ⟨hissued, herr⟩ := hI.busy_issued hb
  obtain ⟨hbusy', hcmd', hen', hregs', hseq', _⟩ := masterStep_frame s.m.cmd s
  have hsome : ∃ op, s.seq.op = some op := by
    cases ho : s.seq.op with
    | some op => exact ⟨op, rfl⟩
    | none => exact absurd (hb.symm.trans (hI.idle_bus ho).2.2.1) nofun
  obtain ⟨op, ho⟩ := hsome
  have hc := hI.issued_code op ho hissued
  have hstart : mcmdStartBit s.m.cmd = true ∨ s.m.held = true :=
    (phaseCode_start_or_held hc).imp_right fun h => hI.held_before op true ho h (Or.inr hb)
  obtain ⟨hheld, hflags⟩ := masterAfter_held (busAnswer s.m.cmd s) s.m.cmd hI.error_flags herr hstart
  exact {
    busy_iff_op := hI.busy_iff_op
    idle_bus := fun h => by cases ho.symm.trans h
    phase_of_op := hI.phase_of_op
    latched_agree := hI.latched_agree
    init_enables := by rw [hen']; exact hI.init_enables
    init_done_enabled := by rw [hen']; exact hI.init_done_enabled
    bus_after_init := hI.bus_after_init
    error_flags := hflags
    busy_issued := by rw [hbusy']; exact nofun
    issued_code := by rw [hcmd']; exact hI.issued_code
    burst_index := hI.burst_index
    held_before := by
      intro op' b _ _ h
      rw [hseq', hissued, hbusy'] at h
      simp at h
    held_after := by rw [hcmd']; exact fun _ _ => hheld
    result_codes := hI.result_codes
    sample_index := hI.sample_index
    memory_wf := envMemoryWf_after _ hI.memory_wf }

end Sys2Proof.Machine
end

section
/-!
PROOFS. The judgement of every phase leads to a state that meets the invariant, and so does every step of the machine
(41_engine_ops R141, R146 to R161; 42_sensor_io R182).
-/

namespace Sys2Proof.Machine

/-! ### Tables -/

theorem burstIndexOk_exit {q q' : Seq} (hq : burstIndexOk q = true) (hn : q'.n = q.n)
    (hp : q'.phase = .done ∨ q'.phase = .stopAbort) : burstIndexOk q' = true := by
  have hcount := (burstIndexOk_iff.mp hq).1
  rcases hp with hp | hp <;> simp [burstIndexOk, hn, hp, hcount]

/-- A burst's last byte, and no other, ends the transaction (41_engine_ops R156). -/
theorem mcmdStopBit_rxcode (i n : Nat) : mcmdStopBit (rxcode i n) = decide (i + 1 = n) := by
  unfold rxcode
  by_cases hi : i = 0
  · subst hi
    by_cases hn : n = 1
    · subst hn; rfl
    · have hn' : ¬ 0 + 1 = n := by omega
      rw [if_pos rfl, if_neg hn, decide_eq_false hn']; rfl
  · rw [if_neg hi]
    by_cases hn : i + 1 = n
    · rw [if_pos hn, decide_eq_true hn]; rfl
    · rw [if_neg hn, decide_eq_false hn]; rfl

/-- The same of a sent burst (41_engine_ops R161). -/
theorem mcmdStopBit_txcode (i n : Nat) : mcmdStopBit (txcode i n) = decide (i + 1 = n) := by
  unfold txcode
  by_cases hn : i + 1 = n
  · rw [if_pos hn, decide_eq_true hn]; rfl
  · rw [if_neg hn, decide_eq_false hn]; rfl

/-- Whatever BUSY, IDLE and BUSBSY are, a captured status with one error flag is a code of 41_engine_ops R153. -/
theorem resultCode_errCode {m : Master} (hf : errorFlagsAgree m = true) (he : m.error = true) :
    resultCode m.errCode = true := by
  unfold Master.errCode Master.stat
  rw [he]
  simp only [errorFlagsAgree, he] at hf
  generalize m.busBusyBit = bsy, m.idleBit = idle, m.arblst = arb, m.datack = dat, m.adrack = adr, m.busy = busy at *
  revert bsy idle arb dat adr busy
  decide

/-! ### The way to the next phase -/

/-- What a step of a running command keeps until its DONE step: all that the invariant speaks of but the sequencer's phase,
indices and error code. -/
structure State.SameCommand (s u : State) : Prop where
  m : u.m = s.m
  env : u.env = s.env
  busy : u.regs.status.busy = s.regs.status.busy
  initDone : u.regs.status.initDone = s.regs.status.initDone
  result : u.regs.result = s.regs.result
  args : u.regs.sa = s.regs.sa ∧ u.regs.ra = s.regs.ra ∧ u.regs.wdata = s.regs.wdata ∧ u.regs.count = s.regs.count
  op : u.seq.op = s.seq.op
  latched : u.seq.sa = s.seq.sa ∧ u.seq.ra = s.seq.ra ∧ u.seq.wd = s.seq.wd ∧ u.seq.n = s.seq.n

theorem State.SameCommand.refl (s : State) : s.SameCommand s :=
  ⟨rfl, rfl, rfl, rfl, rfl, ⟨rfl, rfl, rfl, rfl⟩, rfl, ⟨rfl, rfl, rfl, rfl⟩⟩

/-- The way to phase `p`: the running command goes on, on an idle master, with the bus as `p` needs it. -/
theorem goto_inv {s u : State} (hI : s.Inv) {op : HostCmd} (ho : s.seq.op = some op) (hb : s.m.busy = false)
    (hu : s.SameCommand u) {p : Phase} (hp : phaseOf op p = true)
    (hheld : ∀ b, heldBefore op p = some b → s.m.held = b) (hinit : op = .init → s.m.en = true)
    (hburst : op = .burstRead ∨ op = .burstWrite → burstIndexOk { u.seq with phase := p, issued := false } = true)
    (herr : resultCode u.seq.err = true) (ht : u.seq.t.toNat ≤ 5) : (goto p u).Inv := by
  have hop {op'} (h : (goto p u).seq.op = some op') : op' = op :=
    Option.some.inj (h.symm.trans (hu.op.trans ho))
  obtain ⟨hsa, hra, hwd, hn⟩ := hu.args
  obtain ⟨lsa, lra, lwd, ln⟩ := hu.latched
  obtain ⟨asa, ara, awd, an⟩ := hI.latched_agree (by rw [ho]; nofun)
  exact {
    busy_iff_op := by simp only [goto_regs, goto_seq, hu.busy, hu.op, hI.busy_iff_op]
    idle_bus := fun h => by cases (hu.op.trans ho).symm.trans h
    phase_of_op := fun op' h => by rw [hop h]; exact hp
    latched_agree := fun _ => by
      simp only [goto_regs, goto_seq, hsa, hra, hwd, hn, lsa, lra, lwd, ln]
      exact ⟨asa, ara, awd, an⟩
    init_enables := by simp only [goto_regs, goto_m, hu.initDone, hu.m]; exact hI.init_enables
    init_done_enabled := fun h _ => by rw [goto_m, hu.m]; exact hinit (hop h).symm
    bus_after_init := fun op' h hbus => by
      rw [goto_regs, hu.initDone]
      exact hI.bus_after_init op' (hu.op.symm.trans h) hbus
    error_flags := by rw [goto_m, hu.m]; exact hI.error_flags
    busy_issued := by rw [goto_m, hu.m, hb]; exact nofun
    issued_code := nofun
    burst_index := fun op' h hop' => by rw [hop h] at hop'; exact hburst hop'
    held_before := fun op' b h hh _ => by
      rw [hop h] at hh
      rw [goto_m, hu.m]
      exact hheld b hh
    held_after := nofun
    result_codes := by rw [goto_regs, hu.result]; exact ⟨hI.result_codes.1, herr⟩
    sample_index := ht
    memory_wf := by rw [goto_env, hu.env]; exact hI.memory_wf }

/-- A sample's byte is gathered: after the sixth DONE, before it the next read transaction (42_sensor_io R182). -/
theorem gathered_cases (u : State) :
    (∃ n tmp, gathered u = goto .done { u with draws := n, seq := { u.seq with tmp := tmp } }) ∨
      (u.seq.t ≠ 5 ∧ ∃ n tmp, gathered u =
        goto .startAddrW { u with draws := n, seq := { u.seq with tmp := tmp, t := u.seq.t + 1 } }) := by
  have htaken : (rdtxTaken u).seq = u.seq ∧ ∃ n, rdtxTaken u = { u with draws := n } := by
    unfold rdtxTaken
    cases u.seq.rx <;> exact ⟨rfl, _, rfl⟩
  obtain ⟨hseq, n, hn⟩ := htaken
  unfold gathered
  simp only [hseq]
  rw [hn]
  by_cases h : u.seq.t = 5
  · rw [if_pos h]
    exact Or.inl ⟨_, _, rfl⟩
  · rw [if_neg h]
    exact Or.inr ⟨h, _, _, rfl⟩

/-! ### The judgement of a phase -/

section Judge

variable {s : State} {op : HostCmd} (hI : s.Inv) (ho : s.seq.op = some op) (hb : s.m.busy = false)

include hI ho hb

/-- ABORT (41_engine_ops R152). -/
theorem abort_inv (hop : op = .writeReg ∨ op = .burstRead ∨ op = .burstWrite) (he : s.m.error = true) :
    (abort (markIssued false s)).Inv := by
  unfold abort
  refine goto_inv hI ho hb ?_ ?_ ?_ ?_
    (fun hop' => burstIndexOk_exit (hI.burst_index op ho hop') rfl ?_) (resultCode_errCode hI.error_flags he)
    hI.sample_index
  · exact ⟨rfl, rfl, rfl, rfl, rfl, ⟨rfl, rfl, rfl, rfl⟩, rfl, ⟨rfl, rfl, rfl, rfl⟩⟩
  · rw [markIssued_m]
    cases s.m.held <;> rcases hop with rfl | rfl | rfl <;> rfl
  · rw [markIssued_m]
    cases hh : s.m.held <;> simp [heldBefore]
  · rcases hop with rfl | rfl | rfl <;> nofun
  · rw [markIssued_m]
    cases s.m.held
    · exact Or.inl rfl
    · exact Or.inr rfl

theorem unlessError_inv (hop : op = .writeReg ∨ op = .burstRead ∨ op = .burstWrite) {g : State → State}
    (hg : s.m.error = false → (g (markIssued false s)).Inv) : (unlessError g (markIssued false s)).Inv := by
  unfold unlessError
  rw [markIssued_m]
  cases he : s.m.error
  · exact hg he
  · exact abort_inv hI ho hb hop he

/-- The way from a phase to the next one with nothing but the mark, the received bit and free values changed. -/
theorem goto_markIssued_inv {p : Phase} (rx : Bool) (hp : phaseOf op p = true)
    (hheld : ∀ b, heldBefore op p = some b → s.m.held = b) (hinit : op ≠ .init)
    (hburst : op = .burstRead ∨ op = .burstWrite →
      burstIndexOk { s.seq with phase := p, issued := false, rx := rx } = true) :
    (goto p ((markIssued false s).setSeq { (markIssued false s).seq with rx := rx })).Inv := by
  refine goto_inv hI ho hb ?_ hp hheld (fun h => absurd h hinit) hburst hI.result_codes.2 hI.sample_index
  exact ⟨rfl, rfl, rfl, rfl, rfl, ⟨rfl, rfl, rfl, rfl⟩, rfl, ⟨rfl, rfl, rfl, rfl⟩⟩

/-- After a read of a sample, with the bus free (42_sensor_io R182, R184). -/
theorem gathered_inv (hop : op = .readAccel ∨ op = .readGyro) (hheld : s.m.held = false) (rx : Bool) :
    (gathered ((markIssued false s).setSeq { (markIssued false s).seq with rx := rx })).Inv := by
  have ht := hI.sample_index
  have hnoburst : ¬ (op = .burstRead ∨ op = .burstWrite) := by rcases hop with rfl | rfl <;> nofun
  have hinit : ¬ op = .init := by rcases hop with rfl | rfl <;> nofun
  have hp : phaseOf op .done = true ∧ phaseOf op .startAddrW = true := by
    rcases hop with rfl | rfl <;> exact ⟨rfl, rfl⟩
  have hfree {p b} (h : heldBefore op p = some false) (h' : heldBefore op p = some b) : s.m.held = b :=
    hheld.trans (Option.some.inj (h.symm.trans h'))
  rcases gathered_cases ((markIssued false s).setSeq { (markIssued false s).seq with rx := rx }) with
    ⟨n, tmp, heq⟩ | ⟨h5, n, tmp, heq⟩ <;> rw [heq]
  · refine goto_inv hI ho hb ?_ hp.1 (fun b => hfree (p := .done) rfl) (fun h => absurd h hinit)
      (fun h => absurd h hnoburst) hI.result_codes.2 ht
    exact ⟨rfl, rfl, rfl, rfl, rfl, ⟨rfl, rfl, rfl, rfl⟩, rfl, ⟨rfl, rfl, rfl, rfl⟩⟩
  · refine goto_inv hI ho hb ?_ hp.2 (fun b => hfree (p := .startAddrW) rfl) (fun h => absurd h hinit)
      (fun h => absurd h hnoburst) hI.result_codes.2 ?_
    · exact ⟨rfl, rfl, rfl, rfl, rfl, ⟨rfl, rfl, rfl, rfl⟩, rfl, ⟨rfl, rfl, rfl, rfl⟩⟩
    · have hne : s.seq.t ≠ 5 := h5
      show (s.seq.t + 1).toNat ≤ 5
      bv_omega

variable (hi : s.seq.issued = true)

include hi

omit ho in
/-- A phase without an error leaves the bus held unless its command had STOP (40_bus_master R105). -/
theorem held_of_no_error (he : s.m.error = false) : s.m.held = !mcmdStopBit s.m.cmd := by
  obtain ⟨_, _, harb⟩ := errorFlagsAgree_clear hI.error_flags he
  rw [hI.held_after hi hb, harb, Bool.not_false, Bool.and_true]

theorem held_of_phase_stop {c : BitVec 4} (hc : phaseCode op s.seq = some c) (hs : mcmdStopBit c = true) :
    s.m.held = false := by
  have hcmd : c = s.m.cmd := Option.some.inj (hc.symm.trans (hI.issued_code op ho hi))
  rw [hI.held_after hi hb, ← hcmd, hs]; rfl

theorem held_of_phase_no_stop {c : BitVec 4} (hc : phaseCode op s.seq = some c) (hs : mcmdStopBit c = false)
    (he : s.m.error = false) : s.m.held = true := by
  have hcmd : c = s.m.cmd := Option.some.inj (hc.symm.trans (hI.issued_code op ho hi))
  rw [held_of_no_error hI hb hi he, ← hcmd, hs]; rfl

/-- After a byte of a burst, received or sent (41_engine_ops R155, R160): DONE with the bus free after the last one, and
else the next byte on a held bus. `u` is the state with the byte stored. -/
theorem nextByte_inv (hop : op = .burstRead ∨ op = .burstWrite) {more : Phase}
    (hmore : more = .recvByte ∨ more = .sendByte) (hpmore : phaseOf op more = true)
    (hindex : s.seq.i.toNat < s.seq.n.toNat)
    (hstop : mcmdStopBit s.m.cmd = decide (s.seq.i.toNat + 1 = s.seq.n.toNat)) (he : s.m.error = false) {u : State}
    (hu : s.SameCommand u) (huq : u.seq = { s.seq with issued := false }) : (nextByte more u).Inv := by
  have hheld := held_of_no_error hI hb hi he
  have hburst := hI.burst_index op ho hop
  have hinit : op ≠ .init := by rcases hop with rfl | rfl <;> nofun
  have hheldDone : heldBefore op .done = some false := rfl
  have hheldMore : heldBefore op more = some true := by rcases hmore with rfl | rfl <;> rfl
  have hdone : phaseOf op .done = true := by rcases hop with rfl | rfl <;> rfl
  have herr : resultCode u.seq.err = true := by rw [huq]; exact hI.result_codes.2
  have ht : u.seq.t.toNat ≤ 5 := by rw [huq]; exact hI.sample_index
  unfold nextByte
  rw [huq]
  by_cases hlast : s.seq.i.toNat + 1 = s.seq.n.toNat
  · rw [if_pos hlast]
    refine goto_inv hI ho hb hu hdone ?_ (fun h => absurd h hinit)
      (fun _ => burstIndexOk_exit hburst hu.latched.2.2.2 (Or.inl rfl)) herr ht
    intro b hb'
    rw [hheld, hstop, decide_eq_true hlast]
    exact Option.some.inj (hheldDone.symm.trans hb')
  · rw [if_neg hlast]
    obtain ⟨hcount, -⟩ := burstIndexOk_iff.mp hburst
    have hsucc : (s.seq.i + 1).toNat = s.seq.i.toNat + 1 := by
      unfold bufLen at hcount
      bv_omega
    refine goto_inv hI ho hb ?_ hpmore ?_ (fun h => absurd h hinit) ?_ hI.result_codes.2 hI.sample_index
    · exact ⟨hu.m, hu.env, hu.busy, hu.initDone, hu.result, hu.args, rfl, rfl, rfl, rfl, rfl⟩
    · intro b hb'
      rw [hheld, hstop, decide_eq_false hlast]
      exact Option.some.inj (hheldMore.symm.trans hb')
    · intro _
      have hlt : (s.seq.i + 1).toNat < s.seq.n.toNat := by omega
      rcases hmore with rfl | rfl
      · exact burstIndexOk_iff.mpr ⟨hcount, nofun, fun _ => ⟨hsucc ▸ Nat.succ_pos _, hlt⟩, nofun⟩
      · exact burstIndexOk_iff.mpr ⟨hcount, nofun, nofun, fun _ => hlt⟩

theorem received_inv (hop : op = .burstRead) (hindex : s.seq.i.toNat < s.seq.n.toNat)
    (hstop : mcmdStopBit s.m.cmd = decide (s.seq.i.toNat + 1 = s.seq.n.toNat)) :
    (received (markIssued false s)).Inv := by
  subst hop
  refine unlessError_inv hI ho hb (Or.inr (Or.inl rfl)) (fun he => ?_)
  exact nextByte_inv hI ho hb hi (Or.inl rfl) (Or.inl rfl) rfl hindex hstop he
    ⟨rfl, rfl, rfl, rfl, rfl, ⟨rfl, rfl, rfl, rfl⟩, rfl, ⟨rfl, rfl, rfl, rfl⟩⟩ rfl

/-- START and the register address of WRITE_REG and the bursts (41_engine_ops R150, R155, R160). -/
theorem addressPhase_judge_inv (hop : op = .writeReg ∨ op = .burstRead ∨ op = .burstWrite)
    (hq : s.seq.phase = .startAddrW) {p : Phase} (hp : phaseOf op p = true) (hheld : heldBefore op p = some true)
    (hburst : op = .burstRead ∨ op = .burstWrite → burstIndexOk { s.seq with phase := p, issued := false } = true) :
    (unlessError (goto p) (markIssued false s)).Inv := by
  refine unlessError_inv hI ho hb hop fun he => ?_
  have hon := held_of_phase_no_stop hI ho hb hi (c := 0x3) (by simp only [phaseCode, hq]) rfl he
  exact goto_markIssued_inv hI ho hb s.seq.rx hp (fun b h => hon.trans (Option.some.inj (hheld.symm.trans h)))
    (by rcases hop with rfl | rfl | rfl <;> nofun) hburst

/-- Every phase's judgement, by the phases of each command: the phase's code tells whether the bus is still held. -/
theorem phaseJudge_inv (hp : phaseOf op s.seq.phase = true) :
    (phaseJudge op s.seq.phase (markIssued false s)).Inv := by
  have hindex := hI.burst_index op ho
  have hcode := hI.issued_code op ho hi
  cases hq : s.seq.phase <;> rw [hq] at hp
  case compute | done | idle => simp [phaseCode, hq] at hcode
  case startAddrW =>
    have hread (hop : op ≠ .burstRead) (hinit : op ≠ .init) (hpr : phaseOf op .startAddrR = true)
        (hw : op ≠ .burstWrite) : (goto .startAddrR (markIssued false s)).Inv :=
      goto_markIssued_inv hI ho hb s.seq.rx hpr (by simp [heldBefore, hop]) hinit
        (fun h => absurd h (by simp [hop, hw]))
    have hstart (h : op = .burstRead ∨ op = .burstWrite) :=
      (burstIndexOk_iff.mp (hindex h)).2.1 (Or.inl hq)
    cases op
    case init | estimate => cases hp
    case readReg | readAccel | readGyro | scaleAccel | scaleGyro => exact hread nofun nofun rfl nofun
    case writeReg => exact addressPhase_judge_inv hI ho hb hi (Or.inl rfl) hq rfl rfl nofun
    case burstRead =>
      obtain ⟨hi0, hn⟩ := hstart (Or.inl rfl)
      exact addressPhase_judge_inv hI ho hb hi (Or.inr (Or.inl rfl)) hq rfl rfl fun h =>
        burstIndexOk_iff.mpr ⟨(burstIndexOk_iff.mp (hindex h)).1, fun _ => ⟨hi0, hn⟩, nofun, nofun⟩
    case burstWrite =>
      obtain ⟨hi0, hn⟩ := hstart (Or.inr rfl)
      exact addressPhase_judge_inv hI ho hb hi (Or.inr (Or.inr rfl)) hq rfl rfl fun h =>
        burstIndexOk_iff.mpr ⟨(burstIndexOk_iff.mp (hindex h)).1, nofun, nofun, fun _ => by simpa [hi0] using hn⟩
  case startAddrR =>
    have hfree (hop : op ≠ .burstRead) : s.m.held = false :=
      held_of_phase_stop hI ho hb hi (c := 0x7) (by simp [phaseCode, hq, hop]) rfl
    have hread (hop : op ≠ .burstRead) (hinit : op ≠ .init) (hw : op ≠ .burstWrite) {p : Phase}
        (hpp : phaseOf op p = true) (hh : heldBefore op p = some false) :
        (goto p ((markIssued false s).setSeq { (markIssued false s).seq with rx := !s.m.error })).Inv :=
      goto_markIssued_inv hI ho hb _ hpp (fun b h => (hfree hop).trans (Option.some.inj (hh.symm.trans h))) hinit
        (fun h => absurd h (by simp [hop, hw]))
    cases op
    case init | estimate | writeReg | burstWrite => cases hp
    case readReg => exact hread nofun nofun nofun rfl rfl
    case scaleAccel | scaleGyro => exact hread nofun nofun nofun rfl rfl
    case readAccel => exact gathered_inv hI ho hb (Or.inl rfl) (hfree nofun) _
    case readGyro => exact gathered_inv hI ho hb (Or.inr rfl) (hfree nofun) _
    case burstRead =>
      obtain ⟨hi0, hn⟩ := (burstIndexOk_iff.mp (hindex (Or.inl rfl))).2.1 (Or.inr hq)
      refine received_inv hI ho hb hi rfl (by simpa [hi0] using hn) ?_
      simp only [phaseCode, hq, if_true, Option.some.injEq] at hcode
      rw [← mcmdStopBit_rxcode, hcode]
  case recvByte =>
    cases op
    case burstRead =>
      obtain ⟨_, hlt⟩ := (burstIndexOk_iff.mp (hindex (Or.inl rfl))).2.2.1 hq
      refine received_inv hI ho hb hi rfl hlt ?_
      simp only [phaseCode, hq, Option.some.injEq] at hcode
      rw [← mcmdStopBit_rxcode, hcode]
    all_goals cases hp
  case sendByte =>
    cases op
    case writeReg =>
      have hfree : s.m.held = false := held_of_phase_stop hI ho hb hi (c := 0x5) (by simp [phaseCode, hq]) rfl
      exact unlessError_inv hI ho hb (Or.inl rfl) fun _ =>
        goto_markIssued_inv hI ho hb s.seq.rx rfl (fun b h => hfree.trans (Option.some.inj h)) nofun nofun
    case burstWrite =>
      have hlt := (burstIndexOk_iff.mp (hindex (Or.inr rfl))).2.2.2 hq
      refine unlessError_inv hI ho hb (Or.inr (Or.inr rfl)) fun he =>
        nextByte_inv hI ho hb hi (Or.inr rfl) (Or.inr rfl) rfl hlt ?_ he
          ⟨rfl, rfl, rfl, rfl, rfl, ⟨rfl, rfl, rfl, rfl⟩, rfl, ⟨rfl, rfl, rfl, rfl⟩⟩ rfl
      simp only [phaseCode, hq, reduceCtorEq, if_false, Option.some.injEq] at hcode
      rw [← mcmdStopBit_txcode, hcode]
    all_goals cases hp
  case stopAbort =>
    have hfree : s.m.held = false := held_of_phase_stop hI ho hb hi (c := 0x4) (by simp only [phaseCode, hq]) rfl
    have hdone : phaseOf op .done = true := by cases op <;> rfl
    have hinit : op ≠ .init := by rintro rfl; cases hp
    have h := goto_markIssued_inv hI ho hb (p := .done) s.seq.rx hdone
      (fun b h => hfree.trans (Option.some.inj h)) hinit fun h => burstIndexOk_exit (hindex h) rfl (Or.inl rfl)
    cases op <;> exact h

end Judge

/-! ### The steps of the agents -/

/-- Only COMPUTE and DONE have no master command. -/
theorem phase_of_phaseCode_none {op : HostCmd} {q : Seq} (hp : phaseOf op q.phase = true)
    (hc : phaseCode op q = none) : q.phase = .compute ∨ q.phase = .done := by
  cases hq : q.phase <;> rw [hq] at hp <;> simp only [phaseCode, hq] at hc
  case compute => exact Or.inl rfl
  case done => exact Or.inr rfl
  case idle => cases op <;> cases hp
  case startAddrW | recvByte | stopAbort => cases hc
  case startAddrR | sendByte => split at hc <;> cases hc

theorem doneRegs_initDone {op : HostCmd} {s : State} (h : (doneRegs op s).status.initDone = true) :
    op = .init ∨ s.regs.status.initDone = true := by
  by_cases hsame : (doneRegs op s).status.initDone = s.regs.status.initDone
  · exact Or.inr (hsame.symm.trans h)
  · exact Or.inl ((doneRegs_doneBy op s).initDone hsame).1

theorem doneRegs_result (op : HostCmd) (s : State) :
    (doneRegs op s).result = s.regs.result ∨ (doneRegs op s).result = s.seq.err := by
  cases op
  case writeReg | burstRead | burstWrite => exact Or.inr rfl
  case scaleAccel | scaleGyro =>
    left
    simp only [doneRegs, scaleAccelResults, scaleGyroResults]
    split <;> rfl
  all_goals exact Or.inl rfl

/-- INIT's COMPUTE before it goes on: enabling the master (41_engine_ops R145). -/
theorem enableMaster_inv {s : State} (hI : s.Inv) (tpr : Byte) (pl : Option Nat) :
    ({ s with m := { s.m with en := true, tpr := tpr }, platform := pl } : State).Inv :=
  { hI with init_enables := fun _ => rfl, init_done_enabled := fun _ _ => rfl }

/-- The sequencer's step of a running command. -/
theorem commandBody_inv {s t : State} (hI : s.Inv) {op : HostCmd} (ho : s.seq.op = some op)
    (h : commandBody op s = .next t) : t.Inv := by
  have hp := hI.phase_of_op op ho
  cases hc : phaseCode op s.seq with
  | some c =>
    obtain ⟨f, hf, hbody⟩ := commandBody_of_phaseCode hp hc
    rw [hbody] at h
    rcases phaseStep_next h with ⟨hi, u, hu, rfl⟩ | ⟨_, _, rfl⟩ | ⟨hi, hb, rfl⟩
    · obtain ⟨_, _, _, rfl⟩ := issue_next hu
      rw [hf]
      exact phaseIssued_inv hI ho hi hc _ _
    · exact hI
    · exact phaseJudge_inv hI ho hb hi hp
  | none =>
    have hi : s.seq.issued = false := by
      by_contra hi
      cases hc.symm.trans (hI.issued_code op ho (by simpa using hi))
    have hb : s.m.busy = false := by
      by_contra hb
      cases hi.symm.trans (hI.busy_issued (by simpa using hb)).1
    rcases phase_of_phaseCode_none hp hc with hq | hq
    · have hfree := hI.held_before op false ho (by rw [hq]; rfl) (Or.inl hi)
      have hdone : phaseOf op .done = true := by cases op <;> rfl
      have hdone_of {u : State} (hu : u.Inv) (huo : u.seq.op = some op) (hub : u.m.busy = false)
          (huh : u.m.held = false) (hen : op = .init → u.m.en = true) : (goto .done u).Inv :=
        goto_inv hu huo hub (.refl u) hdone (fun b h => huh.trans (Option.some.inj h)) hen
          (fun h => burstIndexOk_exit (hu.burst_index op huo h) rfl (Or.inl rfl)) hu.result_codes.2 hu.sample_index
      rcases commandBody_compute (hq ▸ hp) hq with ⟨hinit, hbody⟩ | ⟨_, hbody⟩ <;> rw [hbody] at h <;> cases h
      · exact hdone_of hI ho hb hfree fun h => absurd h hinit
      · exact hdone_of (enableMaster_inv hI _ _) ho hb hfree fun _ => rfl
    · obtain ⟨n, hbody⟩ := commandBody_done (op := op) hq
      rw [hbody] at h
      cases h
      refine returned_inv (s := { s with draws := n }) (hI.of_frame rfl rfl rfl rfl rfl ?_ hI.memory_wf) ho hq ?_ ?_
      · exact fun _ => ⟨rfl, rfl, rfl, rfl⟩
      · intro hd
        rcases doneRegs_initDone hd with rfl | hd
        · exact hI.init_done_enabled ho hq
        · exact hI.init_enables hd
      · rcases doneRegs_result op s with h | h <;> rw [h]
        · exact hI.result_codes.1
        · exact hI.result_codes.2

/-- Acceptance, or a burst's rejection, with the checks that let it through (41_engine_ops R142, 30_encoding R84). -/
theorem commandStart_next {op : HostCmd} {s t : State} (h : commandStart op s = .next t) :
    t = s.rejecting ∨
      (t = s.accepted op ∧ (op.usesBus = true → s.regs.status.initDone = true) ∧
        (op = .burstRead ∨ op = .burstWrite → s.regs.count.toNat ≤ bufLen)) := by
  have haccept {op'} {p} (h : accept op' p s = .next t) (hp : p = firstPhase op' s.regs.count) :
      t = s.accepted op' ∧ (op'.usesBus = true → s.regs.status.initDone = true) := by
    subst hp
    rcases accept_cases op' (firstPhase op' s.regs.count) s with ⟨_, _, h'⟩ | ⟨hbus, h'⟩ <;> cases h'.symm.trans h
    exact ⟨rfl, hbus⟩
  have hburst {op'} (hop : op' = .burstRead ∨ op' = .burstWrite) (h : burstStart op' s = .next t) :
      t = s.rejecting ∨ (t = s.accepted op' ∧ (op'.usesBus = true → s.regs.status.initDone = true) ∧
        (op' = .burstRead ∨ op' = .burstWrite → s.regs.count.toNat ≤ bufLen)) := by
    unfold burstStart at h
    split at h
    · cases h; exact Or.inl rfl
    · rename_i hcount
      obtain ⟨haccepted, hbus⟩ := haccept h (firstPhase_burst hop _).symm
      exact Or.inr ⟨haccepted, hbus, fun _ => Nat.le_of_not_lt hcount⟩
  cases op
  case burstRead => exact hburst (Or.inl rfl) h
  case burstWrite => exact hburst (Or.inr rfl) h
  all_goals
    obtain ⟨haccepted, hbus⟩ := haccept h (by simp [firstPhase])
    exact Or.inr ⟨haccepted, hbus, nofun⟩

theorem memWrite_inv {s t : State} (hI : s.Inv) {off width : Nat} {v : Word}
    (h : memWrite exec off width v s = .next t) : t.Inv := by
  have hflag {u : State} (hm : u.m = s.m) (hq : u.seq = s.seq) (he : u.env = s.env)
      (hr : ∃ o b, u.regs = { s.regs with status := { s.regs.status with ovr := o, badCmd := b } }) : u.Inv := by
    obtain ⟨o, b, hr⟩ := hr
    refine hI.of_frame hm hq ?_ ?_ ?_ ?_ (he ▸ hI.memory_wf) <;> rw [hr]
    exact fun _ => ⟨rfl, rfl, rfl, rfl⟩
  obtain ⟨_, ⟨_, _, rfl⟩ | ⟨hb, _, ⟨op, _, hexec⟩ | rfl⟩ | ⟨hb, r, hw, rfl⟩ | ⟨_, _, rfl⟩⟩ := memWrite_next h
  · exact hflag rfl rfl rfl ⟨_, _, rfl⟩
  · rw [exec_of_idle op hb] at hexec
    rcases commandStart_next hexec with rfl | ⟨rfl, hbus, hcount⟩
    · exact hflag rfl rfl rfl ⟨_, _, rfl⟩
    · exact accepted_inv hI op hb hbus hcount
  · exact hflag rfl rfl rfl ⟨_, _, rfl⟩
  · have hstored := writeRw_storedAt hw
    have hnone : s.seq.op = none := by simpa [hb] using hI.busy_iff_op
    exact hI.of_frame rfl rfl (congrArg Status.busy hstored.status) (congrArg Status.initDone hstored.status)
      hstored.result (fun h => absurd hnone h) hI.memory_wf
  · exact hI

theorem hostMove_inv {s t : State} (hI : s.Inv) (h : hostMove exec s = .next t) : t.Inv := by
  have hlist (rest : List HostAction) (values : List Word) : ({ s with host := rest, values := values } : State).Inv :=
    hI.of_frame rfl rfl rfl rfl rfl (fun _ => ⟨rfl, rfl, rfl, rfl⟩) hI.memory_wf
  rcases hostMove_next h with rfl | ⟨off, width, v, rest, _, hw⟩ | ⟨off, width, rest, _, rfl⟩ | ⟨rest, _, rfl⟩
  · exact hI
  · exact memWrite_inv (hlist rest s.values) hw
  · exact hlist rest _
  · exact hlist rest s.values

/-- Settles O54: each agent's move is one of the changes that keep the invariant. -/
theorem stepKeepsTheInvariant : Obligations.StepKeepsTheInvariant := by
  intro s t hI h
  have hS := scheduled_inv hI
  obtain ⟨_, ⟨_, hhost⟩ | ⟨_, ⟨op, ho, hb, hexec⟩ | rfl⟩ | ⟨_, ⟨hb, hrun⟩ | rfl⟩ | ⟨_, rfl⟩ | ⟨_, rfl⟩⟩ := step_next h
  · exact hostMove_inv hS hhost
  · rw [exec_of_running (s := scheduled s) hb ho] at hexec
    exact commandBody_inv hS ho hexec
  · exact hS
  · rw [show s.m.cmd = (scheduled s).m.cmd from rfl] at hrun
    rcases runMcmd_cases (scheduled s).m.cmd (scheduled s) with ⟨_, _, h'⟩ | ⟨_, hne, _⟩ | ⟨hb', _⟩ | ⟨hb', _⟩
    · cases h'.symm.trans hrun
      exact masterStep_inv hS hb
    · exact absurd rfl hne
    · cases hb.symm.trans hb'
    · cases hb.symm.trans hb'
  · exact hS
  · exact environmentMove_inv hS
  · exact applyReset_inv hS

end Sys2Proof.Machine
end

section
/-!
PROOFS. Who writes which host register (10_state R23 to R36, R43): what a step can do to the registers, sorted by the
field that it changes.
-/

namespace Sys2Proof.Machine

/-! ### The writers of one register -/

/-- A step other than a reset that changes a register `g` outside STATUS: the host stores it while no command runs, or a
command's DONE step returns it, or BURST_READ stores a byte. -/
theorem step_changes {α : Type} {s t : State} (h : step s = .next t) (hr : nextAgent s ≠ .reset) (g : Regs → α)
    (hstatus : ∀ (r : Regs) (st : Status), g { r with status := st } = g r) (hne : g t.regs ≠ g s.regs) :
    (s.regs.status.busy = false ∧ ∃ off v, s.hostWrites off v ∧ s.regs.StoredAt off t.regs) ∨
    (∃ op, s.movesIn op .done ∧ g (doneRegs op (scheduled s)) ≠ g s.regs) ∨
    ((s.movesIn .burstRead .startAddrR ∨ s.movesIn .burstRead .recvByte) ∧ s.m.error = false ∧
      ∃ buf, g { s.regs with buf := buf } ≠ g s.regs) := by
  rcases step_regs h hr with heq | ⟨_, _, heq⟩ | ⟨_, _, heq⟩ | ⟨_, _, heq⟩ | ⟨hb, off, v, hw, hstore⟩ |
    ⟨op, hn, ho, _, hq, _, _, heq⟩ | ⟨hn, ho, hq, he, heq⟩
  · exact absurd (by rw [heq]) hne
  · exact absurd (by rw [heq, hstatus]) hne
  · exact absurd (by rw [heq, hstatus]) hne
  · exact absurd (by rw [heq, hstatus]) hne
  · exact Or.inl ⟨hb, off, v, hw, writeRw_storedAt hstore⟩
  · rw [heq, hstatus] at hne
    exact Or.inr (Or.inl ⟨op, ⟨hn, ho, hq⟩, hne⟩)
  · rw [heq] at hne
    exact Or.inr (Or.inr ⟨hq.imp (⟨hn, ho, ·⟩) (⟨hn, ho, ·⟩), he, _, hne⟩)

/-- The writers of a register that no host access writes: the DONE steps that change it. -/
theorem step_doneWriters {α : Type} {s t : State} (h : step s = .next t) (hr : nextAgent s ≠ .reset) (g : Regs → α)
    (hro : ∀ off, s.regs.StoredAt off t.regs → g t.regs = g s.regs) (hne : g t.regs ≠ g s.regs)
    (hstatus : ∀ (r : Regs) (st : Status), g { r with status := st } = g r := by exact fun _ _ => rfl)
    (hbuf : ∀ (r : Regs) (buf : Vector Byte 16), g { r with buf := buf } = g r := by exact fun _ _ => rfl) :
    ∃ op r, s.movesIn op .done ∧ s.regs.DoneBy op r ∧ g r ≠ g s.regs := by
  rcases step_changes h hr g hstatus hne with ⟨_, off, _, _, hstore⟩ | ⟨op, hm, hd⟩ | ⟨_, _, buf, hbuf'⟩
  · exact absurd (hro off hstore) hne
  · exact ⟨op, _, hm, doneRegs_doneBy op (scheduled s), hd⟩
  · exact absurd (hbuf _ _) hbuf'

/-- A register that one command's DONE step alone writes. -/
theorem step_doneWriter {α : Type} {s t : State} (h : step s = .next t) (hr : nextAgent s ≠ .reset) (g : Regs → α)
    (hro : ∀ off, s.regs.StoredAt off t.regs → g t.regs = g s.regs) {o : HostCmd}
    (hop : ∀ op r, s.regs.DoneBy op r → g r ≠ g s.regs → op = o) (hne : g t.regs ≠ g s.regs)
    (hstatus : ∀ (r : Regs) (st : Status), g { r with status := st } = g r := by exact fun _ _ => rfl)
    (hbuf : ∀ (r : Regs) (buf : Vector Byte 16), g { r with buf := buf } = g r := by exact fun _ _ => rfl) :
    s.movesIn o .done := by
  obtain ⟨op, r, hm, hd, hg⟩ := step_doneWriters h hr g hro hne hstatus hbuf
  exact hop op r hd hg ▸ hm

/-- A register that the host writes at the offsets `lo` to `hi`, and one command's DONE step. -/
theorem step_sharedWriter {α : Type} {s t : State} (h : step s = .next t) (hr : nextAgent s ≠ .reset) (g : Regs → α)
    {lo hi : Nat} (hoff : ∀ off, s.regs.StoredAt off t.regs → g t.regs ≠ g s.regs → lo ≤ off ∧ off ≤ hi) {o : HostCmd}
    (hop : ∀ op r, s.regs.DoneBy op r → g r ≠ g s.regs → op = o) (hne : g t.regs ≠ g s.regs)
    (hstatus : ∀ (r : Regs) (st : Status), g { r with status := st } = g r := by exact fun _ _ => rfl)
    (hbuf : ∀ (r : Regs) (buf : Vector Byte 16), g { r with buf := buf } = g r := by exact fun _ _ => rfl) :
    s.movesIn o .done ∨ s.hostStores lo hi := by
  rcases step_changes h hr g hstatus hne with ⟨hb, off, v, hw, hstore⟩ | ⟨op, hm, hd⟩ | ⟨_, _, buf, hbuf'⟩
  · exact Or.inr ⟨hb, off, v, hw, hoff off hstore hne⟩
  · exact Or.inl (hop op _ (doneRegs_doneBy op (scheduled s)) hd ▸ hm)
  · exact absurd (hbuf _ _) hbuf'

/-- A register that the host alone writes, at the offset `n`. -/
theorem step_hostWriter {α : Type} {s t : State} (h : step s = .next t) (hr : nextAgent s ≠ .reset) (g : Regs → α)
    {n : Nat} (hoff : ∀ off, s.regs.StoredAt off t.regs → g t.regs ≠ g s.regs → off = n)
    (hop : ∀ op r, s.regs.DoneBy op r → g r = g s.regs) (hne : g t.regs ≠ g s.regs)
    (hstatus : ∀ (r : Regs) (st : Status), g { r with status := st } = g r := by exact fun _ _ => rfl)
    (hbuf : ∀ (r : Regs) (buf : Vector Byte 16), g { r with buf := buf } = g r := by exact fun _ _ => rfl) :
    s.hostStores n n := by
  rcases step_changes h hr g hstatus hne with ⟨hb, off, v, hw, hstore⟩ | ⟨op, _, hd⟩ | ⟨_, _, buf, hbuf'⟩
  · exact ⟨hb, off, v, hw, (hoff off hstore hne).ge, (hoff off hstore hne).le⟩
  · exact absurd (hop op _ (doneRegs_doneBy op (scheduled s))) hd
  · exact absurd (hbuf _ _) hbuf'

theorem step_of_reset {s t : State} (h : step s = .next t) (hr : nextAgent s = .reset) :
    t = applyReset (scheduled s) := by
  rw [step, stepWith_of_no_fault exec s (step_next h).1, hr] at h
  cases h
  rfl

/-! ### The register groups -/

/-- Settles O47: no DONE step and no received byte writes an argument register, so its writer is the host. -/
theorem argumentRegisterWriters : Obligations.ArgumentRegisterWriters := fun _ _ h hr =>
  ⟨step_hostWriter h hr (·.sa) (fun _ hs => hs.sa) (fun _ _ hd => hd.sa),
    step_hostWriter h hr (·.ra) (fun _ hs => hs.ra) (fun _ _ hd => hd.ra),
    step_hostWriter h hr (·.wdata) (fun _ hs => hs.wdata) (fun _ _ hd => hd.wdata),
    step_hostWriter h hr (·.count) (fun _ hs => hs.count) (fun _ _ hd => hd.count),
    step_hostWriter h hr (·.imuSa) (fun _ hs => hs.imuSa) (fun _ _ hd => hd.imuSa)⟩

/-- Settles O46: each register's DONE writers are those of `Regs.DoneBy`, its host writers those of `Regs.StoredAt`. -/
theorem resultRegisterWriters : Obligations.ResultRegisterWriters := by
  intro s t h hr
  refine ⟨step_doneWriter h hr (·.rdata) (fun _ hs => hs.rdata) (fun _ _ hd => hd.rdata), fun hne => ?result,
    step_doneWriter h hr (·.cfgA) (fun _ hs => hs.cfgA) (fun _ _ hd => hd.cfgA),
    step_doneWriter h hr (·.cfgG) (fun _ hs => hs.cfgG) (fun _ _ hd => hd.cfgG),
    step_sharedWriter h hr (·.accRaw) (fun _ hs => hs.accRaw) (fun _ _ hd => hd.accRaw),
    step_sharedWriter h hr (·.gyrRaw) (fun _ hs => hs.gyrRaw) (fun _ _ hd => hd.gyrRaw),
    step_sharedWriter h hr (·.acc) (fun _ hs => hs.acc) (fun _ _ hd => hd.acc),
    step_sharedWriter h hr (·.gyr) (fun _ hs => hs.gyr) (fun _ _ hd => hd.gyr), fun hne => ?tilt, fun hne => ?buf⟩
  case result =>
    obtain ⟨op, r, hm, hd, hg⟩ := step_doneWriters h hr (·.result) (fun _ hs => hs.result) hne
    obtain rfl | rfl | rfl := hd.result hg
    · exact Or.inl hm
    · exact Or.inr (Or.inl hm)
    · exact Or.inr (Or.inr hm)
  case tilt =>
    rcases hne with hne | hne
    · exact step_doneWriter h hr (·.tiltX) (fun _ hs => hs.tiltX) (fun _ _ hd => hd.tiltX) hne
    · exact step_doneWriter h hr (·.tiltY) (fun _ hs => hs.tiltY) (fun _ _ hd => hd.tiltY) hne
  case buf =>
    rcases step_changes h hr (·.buf) (fun _ _ => rfl) hne with ⟨hb, off, v, hw, hstore⟩ | ⟨op, _, hd⟩ | ⟨hm, he, _⟩
    · exact Or.inr ⟨hb, off, v, hw, hstore.buf hne⟩
    · exact absurd (doneRegs_doneBy op (scheduled s)).buf hd
    · exact Or.inl ⟨hm, he⟩

/-- Settles O44: outside a reset the only writer of YAW is ESTIMATE's DONE step. -/
theorem yawChangesOnlyByEstimate : Obligations.YawChangesOnlyByEstimate := by
  intro s t h hne
  by_cases hr : nextAgent s = .reset
  · rw [step_of_reset h hr]
    exact Or.inl ⟨hr, rfl⟩
  · exact Or.inr (step_doneWriter h hr (·.yaw) (fun _ hs => hs.yaw) (fun _ _ hd => hd.yaw) hne)

/-! ### The STATUS flags -/

/-- What a step other than a reset does to STATUS: nothing, OVR, BADCMD, acceptance, or a command's DONE step. -/
theorem step_status {s t : State} (h : step s = .next t) (hr : nextAgent s ≠ .reset) :
    t.regs.status = s.regs.status ∨
    (s.regs.status.busy = true ∧ (∃ off v, s.hostWrites off v ∧ (off = 0 ∨ rwOffset off = true)) ∧
      t.regs.status = { s.regs.status with ovr := true }) ∨
    (s.regs.status.busy = false ∧ (∃ v, s.hostWrites 0 v) ∧ t.regs.status = { s.regs.status with badCmd := true }) ∨
    (s.regs.status.busy = false ∧
      (∃ op v, s.hostWrites 0 v ∧ decode (.cmd v) = .ok op.instr ∧ t.seq.op = some op) ∧
      t.regs.status = { s.regs.status with ovr := false, badCmd := false, busy := true }) ∨
    (∃ op r, s.movesIn op .done ∧ t.seq.op = none ∧ t.seq.phase = .idle ∧ s.regs.DoneBy op r ∧
      t.regs.status = { r.status with busy := false }) := by
  rcases step_regs h hr with heq | ⟨hb, hw, heq⟩ | ⟨hb, hw, heq⟩ | ⟨hb, hw, heq⟩ | ⟨_, off, v, _, hstore⟩ |
    ⟨op, hn, ho, _, hq, ho', hq', heq⟩ | ⟨_, _, _, _, heq⟩
  · exact Or.inl (by rw [heq])
  · exact Or.inr (Or.inl ⟨hb, hw, by rw [heq]⟩)
  · exact Or.inr (Or.inr (Or.inl ⟨hb, hw, by rw [heq]⟩))
  · exact Or.inr (Or.inr (Or.inr (Or.inl ⟨hb, hw, by rw [heq]⟩)))
  · exact Or.inl (writeRw_storedAt hstore).status
  · exact Or.inr (Or.inr (Or.inr (Or.inr
      ⟨op, _, ⟨hn, ho, hq⟩, ho', hq', doneRegs_doneBy op (scheduled s), by rw [heq]⟩)))
  · exact Or.inl (by rw [heq])

/-- Settles O45: one case for each way in which a step treats STATUS. -/
theorem statusFlagWriters : Obligations.StatusFlagWriters := by
  intro s t h
  by_cases hr : nextAgent s = .reset
  · rw [step_of_reset h hr]
    exact ⟨nofun, fun _ _ => Or.inl hr, nofun, fun _ _ => hr, nofun, nofun, fun _ => Or.inl hr, fun _ => Or.inl hr⟩
  rcases step_status h hr with hst | ⟨hb, hw, hst⟩ | ⟨hb, ⟨v, hw⟩, hst⟩ | ⟨hb, ⟨op, v, hw, hd, ho⟩, hst⟩ |
    ⟨op, r, hm, ho, hq, hd, hst⟩ <;> rw [hst]
  · simp +contextual
  · refine ⟨?_, ?_, ?_, ?_, fun _ _ => ⟨hb, hw⟩, ?_, ?_, ?_⟩ <;> simp +contextual
  · refine ⟨?_, ?_, ?_, ?_, ?_, fun _ _ => ⟨hb, hb, v, hw⟩, ?_, ?_⟩ <;> simp +contextual
  · refine ⟨fun _ _ => ⟨op, v, hw, hd, ho⟩, ?_, ?_, ?_, ?_, ?_, fun _ => Or.inr ⟨hw.1, hb, rfl⟩, ?_⟩ <;>
      simp +contextual
  · refine ⟨nofun, fun _ _ => Or.inr ⟨hm.1, ho, hq⟩, fun h0 h1 => ?_, fun h1 h0 => ?_, ?_, ?_, ?_, fun hne => Or.inr ?_⟩
    · obtain ⟨rfl, -⟩ := hd.initDone (h0 ▸ fun h => absurd (h.symm.trans h1) nofun)
      exact hm
    · exact absurd (h0.symm.trans (hd.initDone (h1 ▸ fun h => absurd (h.symm.trans h0) nofun)).2) nofun
    · simp +contextual [hd.ovr]
    · simp +contextual [hd.badCmd]
    · simp +contextual [hd.ovr, hd.badCmd]
    · obtain rfl | rfl := hd.tierInv hne
      · exact Or.inl hm
      · exact Or.inr hm

end Sys2Proof.Machine
end

section
/-!
PROOFS. One access of the host: which accesses the window admits, and what each write, read and POLL does
(20_memory R62, R63, 30_encoding R90).
-/

namespace Sys2Proof.Machine

/-! ### The host's move, by its next action -/

theorem step_of_host {s : State} (hf : s.fault = none) (hn : nextAgent s = .host) :
    step s = hostMove exec (scheduled s) := by
  rw [step, stepWith_of_no_fault exec s hf, hn, agentMove]

section

variable {run : Instr → State → Result} {s : State} {off width : Nat} {v : Word} {rest : List HostAction}

theorem hostMove_write (h : s.host = .write off width v :: rest) :
    hostMove run s = memWrite run off width v { s with host := rest } := by
  simp only [hostMove, h]

theorem hostMove_read (h : s.host = .read off width :: rest) :
    hostMove run s = memRead off width { s with host := rest } := by
  simp only [hostMove, h]

theorem hostMove_poll_busy (h : s.host = .poll :: rest) (hb : (readReg s.regs 0x04).getLsbD 0 = true) :
    hostMove run s = .next s := by
  simp only [hostMove, h, pollDone, hb, Bool.not_true, Bool.false_eq_true, if_false]

theorem hostMove_poll_idle (h : s.host = .poll :: rest) (hb : (readReg s.regs 0x04).getLsbD 0 = false) :
    hostMove run s = .next { s with host := rest } := by
  simp only [hostMove, h, pollDone, hb, Bool.not_false, if_true]

/-! ### Accesses that the window does not admit (20_memory R62) -/

theorem admitted_eq_false (h : ¬(width = 4 ∧ off % 4 = 0 ∧ off ≤ 0xFC)) : admitted off width = false := by
  simpa [admitted, and_assoc] using h

theorem memWrite_of_not_admitted (h : admitted off width = false) :
    memWrite run off width v s = .fault (.hostAccess off width) := by
  simp only [memWrite, h, Bool.not_false, if_true]

theorem memRead_of_not_admitted (h : admitted off width = false) :
    memRead off width s = .fault (.hostAccess off width) := by
  simp only [memRead, h, Bool.not_false, if_true]

/-! ### Admitted accesses (20_memory R63) -/

theorem memRead_of_admitted (h : admitted off width = true) :
    memRead off width s = .next { s with values := s.values ++ [readReg s.regs off] } := by
  simp only [memRead, h, Bool.not_true, Bool.false_eq_true, if_false]

theorem memWrite_cmd (ha : admitted 0 width = true) : memWrite run 0 width v s = writeCmd run v s := by
  simp only [memWrite, ha, Bool.not_true, Bool.false_eq_true, if_false, if_true]

/-- CMD is written while no command runs: the word is decoded and run. -/
theorem memWrite_cmd_ok {i : Instr} (ha : admitted 0 width = true) (hb : s.regs.status.busy = false)
    (hd : decodeCmd v = .ok i) : memWrite run 0 width v s = run i s := by
  simp only [memWrite_cmd ha, writeCmd, hb, Bool.false_eq_true, if_false, hd]

/-- CMD is written while no command runs, with a word that the decoder refuses (30_encoding R84). -/
theorem memWrite_cmd_error {e : DecodeReject} (ha : admitted 0 width = true) (hb : s.regs.status.busy = false)
    (hd : decodeCmd v = .error e) : memWrite run 0 width v s = .next s.rejecting := by
  simp only [memWrite_cmd ha, writeCmd, hb, Bool.false_eq_true, if_false, hd]
  rfl

theorem memWrite_cmd_busy (ha : admitted 0 width = true) (hb : s.regs.status.busy = true) :
    memWrite run 0 width v s = .next s.overrun := by
  simp only [memWrite_cmd ha, writeCmd, hb, if_true]
  rfl

/-- CMD is no RW register. -/
theorem ne_zero_of_rwOffset (hrw : rwOffset off = true) : off ≠ 0 := by
  rintro rfl
  cases hrw

/-- An RW register is written while no command runs. -/
theorem memWrite_rw_idle {r : Regs} (ha : admitted off width = true) (hrw : rwOffset off = true)
    (hb : s.regs.status.busy = false) (hw : writeRw s.regs off v = some r) :
    memWrite run off width v s = .next { s with regs := r } := by
  simp only [memWrite, ha, Bool.not_true, Bool.false_eq_true, if_false, ne_zero_of_rwOffset hrw, hw, hb]
  rfl

theorem memWrite_rw_busy (ha : admitted off width = true) (hrw : rwOffset off = true)
    (hb : s.regs.status.busy = true) : memWrite run off width v s = .next s.overrun := by
  obtain ⟨r, hw, _⟩ := readReg_writeRw_same s.regs hrw v
  simp only [memWrite, ha, Bool.not_true, Bool.false_eq_true, if_false, if_true, ne_zero_of_rwOffset hrw, hw, hb]
  rfl

/-- A RO register or a reserved offset is written. -/
theorem memWrite_ignored (ha : admitted off width = true) (h0 : off ≠ 0) (hrw : rwOffset off = false) :
    memWrite run off width v s = .next s := by
  simp only [memWrite, ha, Bool.not_true, Bool.false_eq_true, if_false, h0, writeRw_eq_none s.regs hrw v]

/-- A write while a command runs. -/
theorem memWrite_busy (ha : admitted off width = true) (hb : s.regs.status.busy = true) :
    memWrite run off width v s = .next (if off = 0 ∨ rwOffset off = true then s.overrun else s) := by
  by_cases h0 : off = 0
  · subst h0
    rw [memWrite_cmd_busy ha hb, if_pos (Or.inl rfl)]
  · cases hrw : rwOffset off
    · rw [memWrite_ignored ha h0 hrw, if_neg (by simp [h0])]
    · rw [memWrite_rw_busy ha hrw hb, if_pos (Or.inr rfl)]

end

/-- Settles O7: the window refuses the access before it looks at a register. -/
theorem unadmittedAccessFaults : Obligations.UnadmittedAccessFaults := by
  intro s off width v rest hf hn hout h
  have ha := admitted_eq_false hout
  rw [step_of_host hf hn]
  rcases h with h | h
  · rw [hostMove_write (s := scheduled s) h, memWrite_of_not_admitted ha]
  · rw [hostMove_read (s := scheduled s) h, memRead_of_not_admitted ha]

/-- Settles O6: one case for each class of the register written, then the read and POLL. -/
theorem hostAccessEffects : Obligations.HostAccessEffects := by
  intro s off v rest hf hn (ha : admitted off 4 = true) u
  rw [step_of_host hf hn]
  refine ⟨fun h => ?write, fun h => ?read, fun h => ⟨hostMove_poll_busy (s := scheduled s) h,
    hostMove_poll_idle (s := scheduled s) h⟩⟩
  case write =>
    rw [hostMove_write (s := scheduled s) h]
    refine ⟨memWrite_busy (s := u) ha, fun hb h0 => ?cmd, fun hb hrw => ?rw, fun _ h0 hrw => memWrite_ignored ha h0 hrw⟩
    case cmd =>
      subst h0
      cases hd : decode (.cmd v) with
      | ok i => exact memWrite_cmd_ok ha hb hd
      | error e => exact memWrite_cmd_error ha hb hd
    case rw =>
      obtain ⟨r, hw, hread⟩ := readReg_writeRw_same s.regs hrw v
      exact ⟨r, hw, hread, memWrite_rw_idle (s := u) ha hrw hb hw⟩
  case read =>
    rw [hostMove_read (s := scheduled s) h, memRead_of_admitted ha]
    rfl

end Sys2Proof.Machine
end

section
/-!
PROOFS. The history of a step (10_state R44, 40_bus_master R120): no agent's move enters a past step, and only the
master's completion appends wire events.
-/

namespace Sys2Proof.Machine

/-! ### A step of a host command leaves the history as it is -/

theorem unlessError_history {g : State → State} {s : State} (hg : (g s).history = s.history) :
    (unlessError g s).history = s.history := by
  unfold unlessError
  split
  · rfl
  · exact hg

theorem nextByte_history (p : Phase) (s : State) : (nextByte p s).history = s.history := by
  unfold nextByte
  split <;> rfl

theorem received_history (s : State) : (received s).history = s.history :=
  unlessError_history (nextByte_history .recvByte (storeByte s))

theorem gathered_history (s : State) : (gathered s).history = s.history := by
  rcases gathered_cases s with ⟨n, tmp, h⟩ | ⟨_, n, tmp, h⟩ <;> rw [h] <;> rfl

theorem phaseJudge_history (op : HostCmd) (p : Phase) (s : State) : (phaseJudge op p s).history = s.history := by
  unfold phaseJudge
  split
  case h_1 | h_2 | h_3 | h_11 => exact unlessError_history rfl
  case h_5 | h_10 => exact received_history s
  case h_6 | h_7 => exact gathered_history _
  case h_12 => exact unlessError_history (nextByte_history .sendByte s)
  all_goals rfl

/-- A phase that its command's rule does not name: the sequencer does nothing. -/
theorem commandBody_of_other_phase {op : HostCmd} {s : State} (hp : phaseOf op s.seq.phase = false) :
    commandBody op s = .next s := by
  cases op <;> cases hq : s.seq.phase <;> simp [hq, phaseOf] at hp <;>
    simp [commandBody, initBody, readRegBody, writeRegBody, burstReadBody, burstWriteBody, sampleBody, scaleBody,
      estimateBody, hq]

theorem commandBody_history {op : HostCmd} {s t : State} (h : commandBody op s = .next t) : t.history = s.history := by
  cases hp : phaseOf op s.seq.phase with
  | false =>
    rw [commandBody_of_other_phase hp] at h
    cases h
    rfl
  | true =>
    cases hc : phaseCode op s.seq with
    | some c =>
      obtain ⟨f, hf, hbody⟩ := commandBody_of_phaseCode hp hc
      rw [hbody] at h
      rcases phaseStep_next h with ⟨_, u, hu, rfl⟩ | ⟨_, _, rfl⟩ | ⟨_, _, rfl⟩
      · obtain ⟨_, _, _, rfl⟩ := issue_next hu
        rw [hf]
        rfl
      · rfl
      · exact phaseJudge_history op _ _
    | none =>
      rcases phase_of_phaseCode_none hp hc with hq | hq
      · rcases commandBody_compute (hq ▸ hp) hq with ⟨_, hbody⟩ | ⟨_, hbody⟩ <;> rw [hbody] at h <;> cases h <;> rfl
      · obtain ⟨n, hbody⟩ := commandBody_done (op := op) hq
        rw [hbody] at h
        cases h
        rfl

theorem exec_hostCmd_history {op : HostCmd} {s t : State} (h : exec op.instr s = .next t) : t.history = s.history := by
  rw [exec_hostCmd] at h
  rcases runCommand_cases op (commandStart op) (commandBody op) s with ⟨_, h'⟩ | ⟨_, _, h'⟩ | ⟨_, _, h'⟩ <;>
    rw [h'] at h
  · rcases commandStart_next h with rfl | ⟨rfl, _⟩ <;> rfl
  · exact commandBody_history h
  · cases h
    rfl

/-! ### The other agents -/

theorem hostMove_history {s t : State} (h : hostMove exec s = .next t) : t.history = s.history := by
  rcases hostMove_next h with rfl | ⟨off, width, v, rest, _, hw⟩ | ⟨off, width, rest, _, rfl⟩ | ⟨rest, _, rfl⟩
  · rfl
  · obtain ⟨_, ⟨_, _, rfl⟩ | ⟨_, _, ⟨op, _, hexec⟩ | rfl⟩ | ⟨_, r, _, rfl⟩ | ⟨_, _, rfl⟩⟩ := memWrite_next hw
    · rfl
    · exact exec_hostCmd_history (s := { s with host := rest }) hexec
    · rfl
    · rfl
    · rfl
  · rfl
  · rfl

theorem environmentMove_history (s : State) : (environmentMove s).history = s.history := by
  rcases environmentMove_cases s with h | ⟨_, _, _, _, h⟩ <;> rw [h]
  rfl

/-- A master command appends wire events, and enters no past step. -/
theorem runMcmd_history {c : BitVec 4} {s t : State} (h : runMcmd c s = .next t) :
    t.past = s.past ∧ ∃ events, t.trace = s.trace ++ events := by
  rcases runMcmd_cases c s with ⟨_, _, h'⟩ | ⟨_, _, h'⟩ | ⟨_, u, hu, h'⟩ | ⟨_, r, _, h'⟩ <;> cases h'.symm.trans h
  · exact ⟨rfl, _, rfl⟩
  · exact ⟨rfl, [], (List.append_nil _).symm⟩
  · obtain ⟨_, _, _, rfl⟩ := issue_next hu
    exact ⟨rfl, _, rfl⟩

/-- Settles O48: choosing the agent enters the past step, and of the agents' moves the working master's alone touches
the history. -/
theorem traceGrowsByMasterAlone : Obligations.TraceGrowsByMasterAlone := by
  intro s t h
  have hquiet (ht : t.history = (scheduled s).history) :
      t.past = s.past ++ [pastStep (nextAgent s) s] ∧
      ∃ events, t.trace = s.trace ++ events ∧ (events ≠ [] → nextAgent s = .master ∧ s.m.busy = true) :=
    ⟨congrArg History.steps ht, [], (congrArg History.trace ht).trans (List.append_nil _).symm,
      fun hne => absurd rfl hne⟩
  obtain ⟨_, ⟨_, hhost⟩ | ⟨_, ⟨op, _, _, hexec⟩ | rfl⟩ | ⟨hn, ⟨hb, hrun⟩ | rfl⟩ | ⟨_, rfl⟩ | ⟨_, rfl⟩⟩ := step_next h
  · exact hquiet (hostMove_history hhost)
  · exact hquiet (exec_hostCmd_history hexec)
  · exact hquiet rfl
  · obtain ⟨hpast, events, htrace⟩ := runMcmd_history hrun
    exact ⟨hpast, events, htrace, fun _ => ⟨hn, hb⟩⟩
  · exact hquiet rfl
  · exact hquiet (environmentMove_history (scheduled s))
  · exact hquiet rfl

end Sys2Proof.Machine
end

section
/-!
PROOFS. The decoder and the encoder (30_encoding R82 to R88): what the OP map and the MCMD table accept, that both are
inverse to the encoder, and the address byte.
-/

namespace Sys2Proof.Machine

/-! ### The OP map (30_encoding R83) -/

theorem decodeOp_code (op : HostCmd) : decodeOp op.code = some op.instr := by
  cases op <;> rfl

theorem decodeOp_eq_some_iff {o : BitVec 4} {i : Instr} :
    decodeOp o = some i ↔ ∃ op : HostCmd, op.code = o ∧ op.instr = i := by
  refine ⟨fun h => ?_, by rintro ⟨op, rfl, rfl⟩; exact decodeOp_code op⟩
  have hcode (op : HostCmd) {n : Nat} (hn : op.code.toNat = n) (ho : o.toNat = n) : op.code = o :=
    BitVec.eq_of_toNat_eq (hn.trans ho.symm)
  unfold decodeOp at h
  split at h <;> cases h <;> rename_i ho
  · exact ⟨.init, hcode _ rfl ho, rfl⟩
  · exact ⟨.readReg, hcode _ rfl ho, rfl⟩
  · exact ⟨.writeReg, hcode _ rfl ho, rfl⟩
  · exact ⟨.burstRead, hcode _ rfl ho, rfl⟩
  · exact ⟨.burstWrite, hcode _ rfl ho, rfl⟩
  · exact ⟨.readAccel, hcode _ rfl ho, rfl⟩
  · exact ⟨.readGyro, hcode _ rfl ho, rfl⟩
  · exact ⟨.scaleAccel, hcode _ rfl ho, rfl⟩
  · exact ⟨.scaleGyro, hcode _ rfl ho, rfl⟩
  · exact ⟨.estimate, hcode _ rfl ho, rfl⟩

/-- The reserved OPs of 30_encoding R84. -/
theorem decodeOp_eq_none_iff :
    ∀ o : BitVec 4, decodeOp o = none ↔ o ∈ [0x0#4, 0xB#4, 0xC#4, 0xD#4, 0xE#4, 0xF#4] := by
  decide

/-! ### CMD words (30_encoding R82, R84) -/

theorem decodeCmd_of_rsvd {w : Word} (h : cmdRsvd w ≠ 0#28) : decodeCmd w = .error .rsvdNotZero := if_pos h

theorem decodeCmd_of_reserved_op {w : Word} (hr : cmdRsvd w = 0#28) (ho : decodeOp (cmdOp w) = none) :
    decodeCmd w = .error .reservedOp := by
  simp [decodeCmd, hr, ho]

theorem decodeCmd_of_code {w : Word} {op : HostCmd} (hr : cmdRsvd w = 0#28) (ho : op.code = cmdOp w) :
    decodeCmd w = .ok op.instr := by
  simp [decodeCmd, hr, ← ho, decodeOp_code]

/-- The three answers of the decoder to a CMD word. -/
theorem decodeCmd_cases (w : Word) :
    (cmdRsvd w ≠ 0#28 ∧ decodeCmd w = .error .rsvdNotZero) ∨
    (cmdRsvd w = 0#28 ∧ decodeOp (cmdOp w) = none ∧ decodeCmd w = .error .reservedOp) ∨
    (cmdRsvd w = 0#28 ∧ ∃ op : HostCmd, op.code = cmdOp w ∧ decodeCmd w = .ok op.instr) := by
  by_cases hr : cmdRsvd w = 0#28
  · cases ho : decodeOp (cmdOp w) with
    | none => exact Or.inr (Or.inl ⟨hr, rfl, decodeCmd_of_reserved_op hr ho⟩)
    | some i =>
      obtain ⟨op, hcode, -⟩ := decodeOp_eq_some_iff.mp ho
      exact Or.inr (Or.inr ⟨hr, op, hcode, decodeCmd_of_code hr hcode⟩)
  · exact Or.inl ⟨hr, decodeCmd_of_rsvd hr⟩

theorem cmdRsvd_toNat (w : Word) : (cmdRsvd w).toNat = w.toNat / 16 := by
  have := w.isLt
  simp only [cmdRsvd, BitVec.extractLsb'_toNat, Nat.shiftRight_eq_div_pow]
  omega

theorem cmdOp_toNat (w : Word) : (cmdOp w).toNat = w.toNat % 16 := by
  simp [cmdOp, BitVec.extractLsb'_toNat]

/-- A word with RSVD = 0 is its OP. -/
theorem setWidth_cmdOp {w : Word} (hr : cmdRsvd w = 0#28) : (cmdOp w).setWidth 32 = w := by
  have hhigh : w.toNat / 16 = 0 := by rw [← cmdRsvd_toNat, hr]; rfl
  apply BitVec.eq_of_toNat_eq
  rw [BitVec.toNat_setWidth, cmdOp_toNat]
  omega

theorem wfRsvd_eq (w : Word) : wfRsvd w = decide (cmdRsvd w = 0#28) := by
  simp [wfRsvd, ← BitVec.toNat_inj, cmdRsvd_toNat, beq_eq_decide]

theorem wfOp_eq (w : Word) : wfOp w = (decodeOp (cmdOp w)).isSome := by
  have key : ∀ o : BitVec 4, (1 ≤ o.toNat && o.toNat ≤ 10) = (decodeOp o).isSome := by decide
  rw [wfOp, ← cmdOp_toNat, key]

/-! ### MCMD codes (30_encoding R87) -/

theorem mcmdLegal_iff (c : BitVec 4) : mcmdLegal c = true ↔ ∃ i, decodeMcmd c = .ok i := by
  unfold mcmdLegal
  cases decodeMcmd c <;> simp

/-- The codes that an issue lets through are those of the table. -/
theorem mcmdLegal_eq_wfMcmd : ∀ c : BitVec 4, mcmdLegal c = wfMcmd c := by
  decide

theorem eq_reservedMcmd_of_decodeMcmd {c : BitVec 4} {e : DecodeReject} (h : decodeMcmd c = .error e) :
    e = .reservedMcmd := by
  unfold decodeMcmd at h
  split at h <;> cases h
  rfl

theorem encode_of_decodeMcmd {c : BitVec 4} {i : Instr} (h : decodeMcmd c = .ok i) : encode i = .mcmd c := by
  unfold decodeMcmd at h
  split at h <;> cases h <;> rename_i hc <;> exact congrArg Encoded.mcmd (BitVec.eq_of_toNat_eq hc.symm)

/-! ### The statements about the encoding -/

theorem encode_hostCmd (op : HostCmd) : encode op.instr = .cmd (op.code.setWidth 32) := by
  cases op <;> rfl

theorem decode_encode (i : Instr) : decode (encode i) = .ok i := by
  cases i <;> rfl

theorem encode_of_decodeCmd {w : Word} {i : Instr} (h : decodeCmd w = .ok i) : encode i = .cmd w := by
  rcases decodeCmd_cases w with ⟨_, h'⟩ | ⟨_, _, h'⟩ | ⟨hr, op, hcode, h'⟩ <;> cases h'.symm.trans h
  rw [encode_hostCmd, hcode, setWidth_cmdOp hr]

/-- Settles O1: an accepted word is its OP with RSVD = 0, and the two tables name each instruction once. -/
theorem decodeEncodeAgree : Obligations.DecodeEncodeAgree := by
  refine ⟨fun i _ => decode_encode i, fun e i h => ?_⟩
  cases e with
  | cmd w => exact encode_of_decodeCmd h
  | mcmd c => exact encode_of_decodeMcmd h

/-- Settles O2: one case for each answer of the decoder, which the well-formedness tables tell apart. -/
theorem decoderRefusesByName : Obligations.DecoderRefusesByName := by
  refine ⟨fun w => ?cmd, fun c => ?mcmd⟩
  case cmd =>
    rcases decodeCmd_cases w with ⟨hr, h⟩ | ⟨hr, ho, h⟩ | ⟨hr, op, hcode, h⟩
    · simp [decode, wfCmdWord, wfRsvd_eq, hr, h]
    · simp [decode, wfCmdWord, wfRsvd_eq, wfOp_eq, hr, ho, h]
    · simp [decode, wfCmdWord, wfRsvd_eq, wfOp_eq, hr, ← hcode, decodeOp_code, h]
  case mcmd =>
    rw [← mcmdLegal_eq_wfMcmd]
    refine ⟨(mcmdLegal_iff c).symm, ?_⟩
    cases hd : decodeMcmd c with
    | ok i => simp [decode, hd, mcmdLegal]
    | error e =>
      obtain rfl := eq_reservedMcmd_of_decodeMcmd hd
      simp [decode, hd, mcmdLegal]

/-- Settles O3: the words of the tables, run through the decoder. -/
theorem specWordsDecode : Obligations.SpecWordsDecode :=
  ⟨rfl, rfl, rfl, rfl, rfl, rfl, rfl, rfl⟩

/-! ### The address byte (30_encoding R88) -/

theorem addrByte_getLsbD (a : BusAddr) (rw : Bool) (i : Nat) :
    (addrByte a rw).getLsbD i = if i = 0 then rw else a.getLsbD (i - 1) := by
  refine (BitVec.getLsbD_append (x := a) (y := BitVec.ofBool rw)).trans ?_
  cases i <;> simp

theorem addrByte_address (a : BusAddr) (rw : Bool) : (addrByte a rw).extractLsb' 1 7 = a := by
  refine BitVec.eq_of_getLsbD_eq fun i hi => ?_
  simp [hi, addrByte_getLsbD]

theorem addrByte_direction (a : BusAddr) (rw : Bool) : (addrByte a rw).getLsbD 0 = rw :=
  addrByte_getLsbD a rw 0

theorem addrByte_eq_shift (a : BusAddr) (rw : Bool) :
    addrByte a rw = a.setWidth 8 <<< 1 ||| (if rw then 1 else 0) := by
  refine BitVec.eq_of_getLsbD_eq fun i hi => ?_
  rw [addrByte_getLsbD]
  cases i with
  | zero => cases rw <;> simp
  | succ j => cases rw <;> simp [hi]

/-- Settles O4: bit by bit. -/
theorem addressByteAssembly : Obligations.AddressByteAssembly := fun a rw _ =>
  ⟨addrByte_address a rw, addrByte_direction a rw, addrByte_eq_shift a rw, rfl⟩

end Sys2Proof.Machine
end

section
/-!
PROOFS. A CMD write made while no command runs: the rejections of 30_encoding R84, and acceptance (41_engine_ops R142).
-/

namespace Sys2Proof.Machine

/-! ### Acceptance -/

theorem HostCmd.usesBus_iff (op : HostCmd) : op.usesBus = true ↔ op.code ∉ [0x1#4, 0xA#4] := by
  cases op <;> decide

theorem HostCmd.burst_iff (op : HostCmd) : op = .burstRead ∨ op = .burstWrite ↔ op.code ∈ [0x4#4, 0x5#4] := by
  cases op <;> decide

theorem accept_firstPhase (op : HostCmd) (s : State) :
    accept op (firstPhase op s.regs.count) s =
      if op.usesBus = true ∧ s.regs.status.initDone = false then .fault (.uninitUse op.code)
      else .next (s.accepted op) := by
  rcases accept_cases op (firstPhase op s.regs.count) s with ⟨hbus, hinit, h⟩ | ⟨hbus, h⟩
  · rw [h, if_pos ⟨hbus, hinit⟩]
  · rw [h, if_neg (fun hno => absurd (hbus hno.1) (by simp [hno.2]))]
    rfl

/-- R84's check of COUNT, then R142's acceptance. -/
theorem commandStart_eq (op : HostCmd) (s : State) :
    commandStart op s =
      if (op = .burstRead ∨ op = .burstWrite) ∧ bufLen < s.regs.count.toNat then .next s.rejecting
      else accept op (firstPhase op s.regs.count) s := by
  cases op
  case burstRead => simp only [commandStart, burstStart, firstPhase_burst, true_or, true_and]; rfl
  case burstWrite => simp only [commandStart, burstStart, firstPhase_burst, or_true, true_and]; rfl
  all_goals simp [commandStart, firstPhase]

theorem commandStart_of_count {op : HostCmd} {s : State}
    (h : ¬((op = .burstRead ∨ op = .burstWrite) ∧ bufLen < s.regs.count.toNat)) :
    commandStart op s =
      if op.usesBus = true ∧ s.regs.status.initDone = false then .fault (.uninitUse op.code)
      else .next (s.accepted op) := by
  rw [commandStart_eq, if_neg h, accept_firstPhase]

/-! ### The CMD write -/

section

variable {w : Word} {s : State} (hb : s.regs.status.busy = false)

include hb

theorem memWrite_cmd_rsvd (h : cmdRsvd w ≠ 0#28) : memWrite exec 0 4 w s = .next s.rejecting :=
  memWrite_cmd_error rfl hb (decodeCmd_of_rsvd h)

/-- A reserved OP is rejected, whichever of R84's two checks finds the word. -/
theorem memWrite_cmd_reserved_op (h : decodeOp (cmdOp w) = none) : memWrite exec 0 4 w s = .next s.rejecting := by
  by_cases hr : cmdRsvd w = 0#28
  · exact memWrite_cmd_error rfl hb (decodeCmd_of_reserved_op hr h)
  · exact memWrite_cmd_rsvd hb hr

theorem memWrite_cmd_code {op : HostCmd} (hr : cmdRsvd w = 0#28) (hcode : op.code = cmdOp w) :
    memWrite exec 0 4 w s = commandStart op s := by
  rw [memWrite_cmd_ok rfl hb (decodeCmd_of_code hr hcode), exec_of_idle op hb]

end

/-- Every OP but the reserved ones is a host command's. -/
theorem exists_code_eq {o : BitVec 4} (h : decodeOp o ≠ none) : ∃ op : HostCmd, op.code = o := by
  obtain ⟨i, hi⟩ := Option.ne_none_iff_exists'.mp h
  obtain ⟨op, hcode, _⟩ := decodeOp_eq_some_iff.mp hi
  exact ⟨op, hcode⟩

/-- Settles O9: the decoder's two rejections, then the acceptance with its check of COUNT. -/
theorem cmdWriteWhileIdle : Obligations.CmdWriteWhileIdle := by
  intro w s hb
  refine ⟨memWrite_cmd_rsvd hb, fun ho => memWrite_cmd_reserved_op hb ((decodeOp_eq_none_iff _).mpr ho),
    fun ho hcount => ?burst, fun hr ho hcount => ?accepted⟩
  case burst =>
    rcases decodeCmd_cases w with ⟨hr, _⟩ | ⟨_, hnone, _⟩ | ⟨hr, op, hcode, _⟩
    · exact memWrite_cmd_rsvd hb hr
    · exact memWrite_cmd_reserved_op hb hnone
    · have hop : op = .burstRead ∨ op = .burstWrite := op.burst_iff.mpr (hcode ▸ ho)
      rw [memWrite_cmd_code hb hr hcode, commandStart_eq, if_pos ⟨hop, hcount⟩]
  case accepted =>
    obtain ⟨op, hcode⟩ := exists_code_eq (mt (decodeOp_eq_none_iff _).mp ho)
    refine ⟨op, hcode, ?_⟩
    rw [memWrite_cmd_code hb hr hcode, commandStart_of_count (by rwa [op.burst_iff, hcode])]
    simp only [op.usesBus_iff]

end Sys2Proof.Machine
end

section
/-!
PROOFS. What a step runs (30_encoding R80, 41_engine_ops R140, 40_bus_master R104), and which steps can fault from a state
that meets the invariant (60_exceptions R248).
-/

namespace Sys2Proof.Machine

/-! ### The moves of the sequencer and the master -/

section

variable {run : Instr → State → Result} {s : State}

theorem sequencerMove_running {op : HostCmd} (h : s.running op) : sequencerMove run s = run op.instr s := by
  obtain ⟨hb, ho⟩ := h
  simp only [sequencerMove, ho, hb, if_true]

theorem masterMove_busy {i : Instr} (hb : s.m.busy = true) (hd : decodeMcmd s.m.cmd = .ok i) :
    masterMove run s = run i s := by
  simp only [masterMove, hb, hd, if_true]

theorem masterMove_idle (hb : s.m.busy = false) : masterMove run s = .next s := by
  simp only [masterMove, hb, Bool.false_eq_true, if_false]

theorem sequencerMove_idle (ho : s.seq.op = none) : sequencerMove run s = .next s := by
  simp only [sequencerMove, ho]

end

theorem step_eq_agentMove {s : State} (hf : s.fault = none) : step s = agentMove exec (nextAgent s) (scheduled s) :=
  stepWith_of_no_fault exec s hf

/-- Settles O5: each agent's move, with what it fetches decoded. -/
theorem stepRunsDecodedInstruction : Obligations.StepRunsDecodedInstruction := by
  intro s hf
  refine ⟨?host, ?sequencer, ?master, ?choice⟩
  case host =>
    intro w i ⟨hn, rest, hw⟩ hb hd
    rw [step_of_host hf hn, hostMove_write (s := scheduled s) hw, hw]
    exact memWrite_cmd_ok (s := { scheduled s with host := rest }) rfl hb hd
  case sequencer =>
    intro op hn hrun
    rw [step_eq_agentMove hf, hn]
    exact sequencerMove_running (s := scheduled s) hrun
  case master =>
    intro i hn hb hd
    rw [step_eq_agentMove hf, hn]
    exact masterMove_busy (s := scheduled s) hb hd
  case choice => simp [scheduled]

/-! ### The sequencer's and the master's moves go on -/

theorem mcmdLegal_rxcode (i n : Nat) : mcmdLegal (rxcode i n) = true := by
  unfold rxcode
  split_ifs <;> rfl

theorem mcmdLegal_txcode (i n : Nat) : mcmdLegal (txcode i n) = true := by
  unfold txcode
  split_ifs <;> rfl

/-- No phase issues a reserved code. -/
theorem mcmdLegal_of_phaseCode {op : HostCmd} {q : Seq} {c : BitVec 4} (hc : phaseCode op q = some c) :
    mcmdLegal c = true := by
  cases hq : q.phase <;> simp only [phaseCode, hq] at hc
  case startAddrW | stopAbort => cases hc; rfl
  case startAddrR =>
    split at hc <;> cases hc
    · exact mcmdLegal_rxcode _ _
    · rfl
  case recvByte => cases hc; exact mcmdLegal_rxcode _ _
  case sendByte =>
    split at hc <;> cases hc
    · rfl
    · exact mcmdLegal_txcode _ _
  case compute | done | idle => cases hc

theorem mcmdNeedsHeld_eq_false_of_start : ∀ c : BitVec 4, mcmdStartBit c = true → mcmdNeedsHeld c = false := by
  decide

/-- INIT and ESTIMATE have no phase with a master command. -/
theorem usesBus_of_phaseCode {op : HostCmd} {q : Seq} {c : BitVec 4} (hp : phaseOf op q.phase = true)
    (hc : phaseCode op q = some c) : op.usesBus = true := by
  cases op
  case init | estimate => cases hq : q.phase <;> simp [hq, phaseOf, phaseCode] at hp hc
  all_goals rfl

/-- A phase whose command passes the checks of an issue goes on. -/
theorem phaseStep_goes_on {f : State → State} {c : BitVec 4} {g : State → State} {s : State}
    (h : s.seq.issued = false → ∃ t, issue c (f s) = .next t) : ∃ t, phaseStep f c g s = .next t := by
  unfold phaseStep
  cases hi : s.seq.issued
  · obtain ⟨t, ht⟩ := h hi
    simp [ht]
  · cases hb : s.m.busy <;> simp

/-- The issue of a phase passes R103's checks: the master is enabled since INIT, the code is of the table, and a
continuing code finds the bus held. -/
theorem phase_issue_next {s : State} (hI : s.Inv) {op : HostCmd} (ho : s.seq.op = some op) {c : BitVec 4}
    (hc : phaseCode op s.seq = some c) (hi : s.seq.issued = false) (a d : Byte) :
    ∃ t, issue c (s.setMaster { s.m with sa := a, dr := d }) = .next t := by
  have hbus := usesBus_of_phaseCode (hI.phase_of_op op ho) hc
  have hen : s.m.en = true := hI.init_enables (hI.bus_after_init op ho hbus)
  have hheld : mcmdNeedsHeld c = true → s.m.held = true := by
    intro hneeds
    rcases phaseCode_start_or_held hc with hstart | hbefore
    · exact absurd (hneeds.symm.trans (mcmdNeedsHeld_eq_false_of_start c hstart)) nofun
    · exact hI.held_before op true ho hbefore (Or.inl hi)
  exact ⟨_, issue_ok hen (mcmdLegal_of_phaseCode hc) hheld⟩

theorem commandBody_goes_on {s : State} (hI : s.Inv) {op : HostCmd} (ho : s.seq.op = some op) :
    ∃ t, commandBody op s = .next t := by
  have hp := hI.phase_of_op op ho
  cases hc : phaseCode op s.seq with
  | some c =>
    obtain ⟨f, hf, hbody⟩ := commandBody_of_phaseCode hp hc
    rw [hbody]
    exact phaseStep_goes_on fun hi => hf ▸ phase_issue_next hI ho hc hi _ _
  | none =>
    rcases phase_of_phaseCode_none hp hc with hq | hq
    · rcases commandBody_compute (hq ▸ hp) hq with ⟨_, h⟩ | ⟨_, h⟩ <;> exact ⟨_, h⟩
    · obtain ⟨n, h⟩ := commandBody_done (op := op) hq
      exact ⟨_, h⟩

theorem sequencerMove_goes_on {s : State} (hI : s.Inv) : ∃ t, sequencerMove exec s = .next t := by
  cases ho : s.seq.op with
  | none => exact ⟨s, sequencerMove_idle ho⟩
  | some op =>
    have hb : s.regs.status.busy = true := by rw [hI.busy_iff_op, ho]; rfl
    rw [sequencerMove_running ⟨hb, ho⟩, exec_of_running hb ho]
    exact commandBody_goes_on hI ho

/-- The command that the master works on is one of the table: the running command's phase has issued it. -/
theorem mcmdLegal_of_busy {s : State} (hI : s.Inv) (hb : s.m.busy = true) : mcmdLegal s.m.cmd = true := by
  cases ho : s.seq.op with
  | none => exact absurd (hb.symm.trans (hI.idle_bus ho).2.2.1) nofun
  | some op => exact mcmdLegal_of_phaseCode (hI.issued_code op ho (hI.busy_issued hb).1)

theorem masterMove_goes_on {s : State} (hI : s.Inv) : ∃ t, masterMove exec s = .next t := by
  cases hb : s.m.busy with
  | false => exact ⟨s, masterMove_idle hb⟩
  | true =>
    obtain ⟨i, hd⟩ := (mcmdLegal_iff _).mp (mcmdLegal_of_busy hI hb)
    rw [masterMove_busy hb hd, decodeMcmd_exec hd, runMcmd_working _ _ hb rfl]
    exact ⟨_, rfl⟩

theorem step_goes_on {s : State} (hI : s.Inv) (hf : s.fault = none) (hn : nextAgent s ≠ .host) :
    ∃ t, step s = .next t := by
  have hS := scheduled_inv hI
  rw [step_eq_agentMove hf]
  cases ha : nextAgent s with
  | host => exact absurd ha hn
  | sequencer => exact sequencerMove_goes_on hS
  | master => exact masterMove_goes_on hS
  | environment => exact ⟨_, rfl⟩
  | reset => exact ⟨_, rfl⟩

/-! ### The host's faults -/

theorem commandStart_fault {op : HostCmd} {s : State} {r : Fault} (h : commandStart op s = .fault r) :
    op.usesBus = true ∧ s.regs.status.initDone = false ∧ r = .uninitUse op.code := by
  rw [commandStart_eq] at h
  split at h
  · cases h
  · rw [accept_firstPhase] at h
    split at h <;> cases h
    rename_i hno
    exact ⟨hno.1, hno.2, rfl⟩

/-- The ways in which a host access can fault (20_memory R62, 41_engine_ops R142). -/
def State.hostFaults (s : State) (r : Fault) : Prop :=
  (∃ off width, admitted off width = false ∧ r = .hostAccess off width) ∨
    ∃ op : HostCmd, op.usesBus = true ∧ s.regs.status.initDone = false ∧ r = .uninitUse op.code

theorem writeCmd_fault {w : Word} {s : State} {r : Fault} (h : writeCmd exec w s = .fault r) : s.hostFaults r := by
  unfold writeCmd at h
  split at h
  · cases h
  · rename_i hb
    split at h
    · rename_i i hd
      obtain ⟨op, rfl⟩ := decodeCmd_hostCmd hd
      rw [exec_of_idle op (eq_false_of_ne_true hb)] at h
      exact Or.inr ⟨op, commandStart_fault h⟩
    · cases h

theorem memWrite_fault {off width : Nat} {v : Word} {s : State} {r : Fault}
    (h : memWrite exec off width v s = .fault r) : s.hostFaults r := by
  unfold memWrite at h
  split at h
  · rename_i ha
    cases h
    exact Or.inl ⟨off, width, by simpa using ha, rfl⟩
  · split at h
    · exact writeCmd_fault h
    · split at h
      · cases h
      · split at h <;> cases h

theorem memRead_fault {off width : Nat} {s : State} {r : Fault} (h : memRead off width s = .fault r) :
    s.hostFaults r := by
  unfold memRead at h
  split at h <;> cases h
  rename_i ha
  exact Or.inl ⟨off, width, by simpa using ha, rfl⟩

theorem hostMove_fault {s : State} {r : Fault} (h : hostMove exec s = .fault r) : s.hostFaults r := by
  unfold hostMove at h
  split at h
  · cases h
  · rename_i rest _
    exact memWrite_fault (s := { s with host := rest }) h
  · rename_i rest _
    exact memRead_fault (s := { s with host := rest }) h
  · split at h <;> cases h

/-- Settles O55: from the invariant every move but the host's goes on, and the host's faults are those of its access. -/
theorem onlyHostAccessesFault : Obligations.OnlyHostAccessesFault := by
  intro s hI hf
  refine ⟨step_goes_on hI hf, fun r h => ?_⟩
  by_cases hn : nextAgent s = .host
  · rw [step_of_host hf hn] at h
    exact hostMove_fault (s := scheduled s) h
  · obtain ⟨t, ht⟩ := step_goes_on hI hf hn
    cases ht.symm.trans h

end Sys2Proof.Machine
end

section
/-!
PROOFS. The seven master commands (40_bus_master R106 to R112): the checks of an issue, and how each completes for every
answer of the bus.
-/

namespace Sys2Proof.Machine

/-! ### The checks of an issue (40_bus_master R103) -/

theorem mem_mcmdCodes_iff {c : BitVec 4} :
    c ∈ [0x1#4, 0x3#4, 0x4#4, 0x5#4, 0x7#4, 0x9#4, 0xB#4] ↔ mcmdLegal c = true := by
  rw [mcmdLegal_eq_wfMcmd, wfMcmd, List.contains_iff_mem]

theorem mem_continuingCodes_iff {c : BitVec 4} : c ∈ [0x1#4, 0x5#4, 0x9#4] ↔ mcmdNeedsHeld c = true := by
  simp [mcmdNeedsHeld, or_assoc]

section

variable {c : BitVec 4} {s : State}

theorem issue_disabled (hen : s.m.en = false) : issue c s = .fault (.uninitUse (opInfo s)) := by
  simp [issue, hen]

theorem issue_reserved (hen : s.m.en = true) (hl : mcmdLegal c = false) : issue c s = .fault (.masterProtocol c) := by
  simp [issue, hen, hl]

theorem issue_not_held (hen : s.m.en = true) (hn : mcmdNeedsHeld c = true) (hh : s.m.held = false) :
    issue c s = .fault (.masterProtocol c) := by
  simp [issue, hen, hn, hh]

end

/-- Settles O12: each check fails in turn, or all pass. -/
theorem issueChecks : Obligations.IssueChecks := by
  intro c s
  simp only [mem_mcmdCodes_iff, mem_continuingCodes_iff, Bool.not_eq_true]
  refine ⟨issue_disabled, issue_reserved, issue_not_held, fun hen hl hheld => issue_ok hen hl fun hn => ?_⟩
  by_contra hh
  exact hheld ⟨hn, eq_false_of_ne_true hh⟩

/-! ### An MCMD's instruction -/

section

variable {i : Instr} {c : BitVec 4} {s : State}

theorem decodeMcmd_of_encode (hi : encode i = .mcmd c) : decodeMcmd c = .ok i := by
  have h := decode_encode i
  rwa [hi] at h

theorem mcmdLegal_of_encode (hi : encode i = .mcmd c) : mcmdLegal c = true :=
  (mcmdLegal_iff c).mpr ⟨i, decodeMcmd_of_encode hi⟩

theorem exec_mcmd (hi : encode i = .mcmd c) (s : State) : exec i s = runMcmd c s :=
  decodeMcmd_exec (decodeMcmd_of_encode hi) s

/-- The state after the master `m` has completed command `c` with the answers `a` (40_bus_master R104). -/
def State.completion (s : State) (a : BusAnswer) (c : BitVec 4) (m : Master) : State :=
  s.completed a (masterProgress a c m).m (masterProgress a c m).events

theorem State.completion_m (s : State) (a : BusAnswer) (c : BitVec 4) (m : Master) :
    (s.completion a c m).m = masterAfter a c m := rfl

theorem exec_mcmd_working (hi : encode i = .mcmd c) (hb : s.m.busy = true) (hc : s.m.cmd = c) :
    exec i s = .next (s.completion (s.env.answer s.draws s.history s.m c) c s.m) := by
  rw [exec_mcmd hi, runMcmd_working c s hb hc]
  rfl

theorem exec_mcmd_waits (hi : encode i = .mcmd c) (hb : s.m.busy = true) (hc : s.m.cmd ≠ c) :
    exec i s = .next s := by
  rw [exec_mcmd hi, runMcmd, if_pos hb, if_neg hc]

theorem exec_mcmd_idle (hi : encode i = .mcmd c) (hb : s.m.busy = false) (hen : s.m.en = true)
    (hh : mcmdNeedsHeld c = false ∨ s.m.held = true) :
    exec i s =
      .next (s.completion (s.env.answer s.draws s.history (s.m.working c) c) c (s.m.working c)) := by
  rw [exec_mcmd hi, runMcmd_idle c s hb hen (mcmdLegal_of_encode hi) fun hn => hh.resolve_left (by simp [hn])]
  rfl

theorem exec_mcmd_fault {r : Fault} (hi : encode i = .mcmd c) (hb : s.m.busy = false) (h : issue c s = .fault r) :
    exec i s = .fault r := by
  simp only [exec_mcmd hi, runMcmd, hb, Bool.false_eq_true, if_false, h]

theorem exec_mcmd_disabled (hi : encode i = .mcmd c) (hb : s.m.busy = false) (hen : s.m.en = false) :
    exec i s = .fault (.uninitUse (opInfo s)) :=
  exec_mcmd_fault hi hb (issue_disabled hen)

theorem exec_mcmd_not_held (hi : encode i = .mcmd c) (hb : s.m.busy = false) (hn : mcmdNeedsHeld c = true)
    (hen : s.m.en = true) (hh : s.m.held = false) : exec i s = .fault (.masterProtocol c) :=
  exec_mcmd_fault hi hb (issue_not_held hen hn hh)

end

/-! ### A completion, case by case (40_bus_master R105) -/

/-- The master after the tail of a command with RUN that kept arbitration: STOP frees the bus. -/
def Master.ended (m : Master) (c : BitVec 4) : Master := { m with held := !mcmdStopBit c && m.held }

/-- The wire event of that tail. -/
def stopEvents (c : BitVec 4) : List WireEvent := if mcmdStopBit c then [.p] else []

/-- How command `c` answers a received byte. -/
def ackOf (c : BitVec 4) : Ack := if mcmdAckBit c then .ack else .nack

theorem stopPart_of_run {c : BitVec 4} {p : Progress} (hr : mcmdRunBit c = true) (hl : p.lost = false) :
    stopPart c p = { p with m := p.m.ended c, events := p.events ++ stopEvents c } := by
  cases hs : mcmdStopBit c
  · rw [stopPart_skip c p (Or.inl hs)]
    simp [Master.ended, stopEvents, hs]
  · rw [stopPart_stop c p hs hl (Or.inl hr)]
    simp [Master.ended, stopEvents, hs]

section

variable {s : State} {a : BusAnswer} {c : BitVec 4} {m : Master} {r : Result}

/-- RUN without START: arbitration lost, or one byte. -/
theorem continuing_cases (h : r = .next (s.completion a c m)) (hs : mcmdStartBit c = false)
    (hr : mcmdRunBit c = true) :
    (a.lostBeforeData = true → r = .next (s.completed a m.afterLoss [.lost])) ∧
    (a.lostBeforeData = false →
      r = .next (s.completed a ((m.afterByte a).ended c) (byteEvent m a (ackOf c) :: stopEvents c))) := by
  subst h
  refine ⟨fun hl => ?lost, fun hl => ?byte⟩ <;>
    rw [State.completion, masterProgress, startPart_skip a c m hs]
  case lost => rw [runPart_lost a c _ hr rfl hl, stopPart_skip c _ (Or.inr (Or.inl rfl))]; rfl
  case byte => rw [runPart_byte a c _ hr rfl hl, stopPart_of_run hr rfl]; rfl

/-- START and RUN: arbitration lost before the address, no acknowledge, arbitration lost before the byte, or one
byte. -/
theorem starting_cases (h : r = .next (s.completion a c m)) (hs : mcmdStartBit c = true)
    (hr : mcmdRunBit c = true) :
    (a.lostBeforeAddr = true → r = .next (s.completed a m.afterLoss [startEvent m, .lost])) ∧
    (a.lostBeforeAddr = false → a.addrAck = .nack →
      r = .next
        (s.completed a (({ m.addressed with adrack := true, error := true } : Master).ended c)
          ([startEvent m, addrEvent m .nack] ++ stopEvents c))) ∧
    (a.lostBeforeAddr = false → a.addrAck = .ack → a.lostBeforeData = true →
      r = .next (s.completed a m.addressed.afterLoss [startEvent m, addrEvent m .ack, .lost])) ∧
    (a.lostBeforeAddr = false → a.addrAck = .ack → a.lostBeforeData = false →
      r = .next
        (s.completed a ((m.addressed.afterByte a).ended c)
          ([startEvent m, addrEvent m .ack, byteEvent m.addressed a (ackOf c)] ++ stopEvents c))) := by
  subst h
  refine ⟨fun hl => ?lost, fun hl hk => ?nack, fun hl hk hd => ?dataLost, fun hl hk hd => ?byte⟩ <;>
    rw [State.completion, masterProgress]
  case lost =>
    rw [startPart_lost a c m hs hl, runPart_skip a c _ (Or.inr rfl), stopPart_skip c _ (Or.inr (Or.inl rfl))]
  case nack =>
    rw [startPart_nack a c m hs hl hk, runPart_skip a c _ (Or.inr rfl), stopPart_of_run hr rfl]
  case dataLost =>
    rw [startPart_ack a c m hs hl hk, runPart_lost a c _ hr rfl hd, stopPart_skip c _ (Or.inr (Or.inl rfl))]
    rfl
  case byte =>
    rw [startPart_ack a c m hs hl hk, runPart_byte a c _ hr rfl hd, stopPart_of_run hr rfl]
    rfl

/-- STOP alone: P on a held bus, nothing on a free one. -/
theorem stop_cases (h : r = .next (s.completion a 0x4 m)) :
    (m.held = true → r = .next (s.completed a { m with held := false } [.p])) ∧
    (m.held = false → r = .next (s.completed a m [])) := by
  subst h
  refine ⟨fun hh => ?held, fun hh => ?free⟩ <;>
    rw [State.completion, masterProgress, startPart_skip a 0x4 m rfl, runPart_skip a 0x4 _ (Or.inl rfl)]
  case held => rw [stopPart_stop 0x4 _ rfl rfl (Or.inr hh)]; rfl
  case free => rw [stopPart_skip 0x4 _ (Or.inr (Or.inr ⟨rfl, hh⟩))]

end

/-! ### The statements about the master commands -/

/-- Settles O13: a command in work completes by the cases of its flags; another one's instruction waits. -/
theorem completionWhileWorking : Obligations.CompletionWhileWorking := by
  intro i c s hi hb m a k stop freed
  have hrun (hc : s.m.cmd = c) : exec i s = .next (s.completion a c m) := exec_mcmd_working hi hb hc
  refine ⟨exec_mcmd_waits hi hb, fun hc hmem => ?continuing, fun hc hmem => ?starting, fun hc h4 => ?stop⟩
  case continuing =>
    simp only [List.mem_cons, List.not_mem_nil, or_false] at hmem
    obtain rfl | rfl | rfl := hmem <;> exact continuing_cases (hrun hc) rfl rfl
  case starting =>
    simp only [List.mem_cons, List.not_mem_nil, or_false] at hmem
    obtain rfl | rfl | rfl := hmem <;> exact starting_cases (hrun hc) rfl rfl
  case stop =>
    subst h4
    exact stop_cases (hrun hc)

/-- Settles O14: a continuing command passes the issue on a held bus alone. -/
theorem mcmdRunCompletes : Obligations.McmdRunCompletes := by
  intro i c k s hmem hb
  simp only [List.mem_cons, Prod.mk.injEq, List.not_mem_nil, or_false] at hmem
  obtain ⟨rfl, rfl, rfl⟩ | ⟨rfl, rfl, rfl⟩ := hmem <;>
    exact ⟨exec_mcmd_disabled rfl hb, exec_mcmd_not_held rfl hb rfl, fun hen hh =>
      continuing_cases (exec_mcmd_idle rfl hb hen (Or.inr hh)) rfl rfl⟩

/-- Settles O15: a starting command passes the issue whether or not the bus is held. -/
theorem mcmdStartRunCompletes : Obligations.McmdStartRunCompletes := by
  intro i c k s hmem hb
  simp only [List.mem_cons, Prod.mk.injEq, List.not_mem_nil, or_false] at hmem
  obtain ⟨rfl, rfl, rfl⟩ | ⟨rfl, rfl, rfl⟩ := hmem <;>
    exact ⟨exec_mcmd_disabled rfl hb, fun hen => starting_cases (exec_mcmd_idle rfl hb hen (Or.inl rfl)) rfl rfl⟩

/-- Settles O16: STOP passes the issue on any bus, and ends by whether it is held. -/
theorem mcmdStopCompletes : Obligations.McmdStopCompletes := by
  intro s hb
  have hrun (hen : s.m.en = true) := stop_cases (exec_mcmd_idle (i := .mcmdStop) rfl hb hen (Or.inl rfl))
  exact ⟨exec_mcmd_disabled rfl hb, fun hen => (hrun hen).1, fun hen => (hrun hen).2⟩

/-- Settles O17: as RUN, with the tail of STOP. -/
theorem mcmdRunStopCompletes : Obligations.McmdRunStopCompletes := fun _ hb =>
  ⟨exec_mcmd_disabled rfl hb, exec_mcmd_not_held rfl hb rfl, fun hen hh =>
    continuing_cases (exec_mcmd_idle rfl hb hen (Or.inr hh)) rfl rfl⟩

/-- Settles O18: as START+RUN, with the tail of STOP. -/
theorem mcmdStartRunStopCompletes : Obligations.McmdStartRunStopCompletes := fun _ hb =>
  ⟨exec_mcmd_disabled rfl hb, fun hen => starting_cases (exec_mcmd_idle rfl hb hen (Or.inl rfl)) rfl rfl⟩

/-! ### The flags and the bus after a command (40_bus_master R114) -/

theorem wfNeedsHeld_eq : ∀ c : BitVec 4, wfNeedsHeld c = mcmdNeedsHeld c := by
  decide

/-- A command begins a transaction, continues one, or is STOP alone (30_encoding R87). -/
theorem mcmdLegal_cases :
    ∀ c : BitVec 4, mcmdLegal c = true → mcmdStartBit c = true ∨ mcmdNeedsHeld c = true ∨ c = 0x4#4 := by
  decide

/-- The bits of `m.STAT` (10_state R37). -/
theorem Master.stat_bits (m : Master) :
    m.stat.getLsbD 0 = m.busy ∧ m.stat.getLsbD 1 = m.error ∧ m.stat.getLsbD 2 = m.adrack ∧
      m.stat.getLsbD 3 = m.datack ∧ m.stat.getLsbD 4 = m.arblst ∧ m.stat.getLsbD 5 = m.idleBit ∧
      m.stat.getLsbD 6 = m.busBusyBit := by
  unfold Master.stat
  generalize m.busBusyBit = bsy, m.idleBit = idle, m.arblst = arb, m.datack = dat, m.adrack = adr, m.error = err,
    m.busy = busy
  revert bsy idle arb dat adr err busy
  decide

/-- Settles O19: STOP alone on a free bus leaves the flags that its issue cleared; every other command begins a
transaction or finds the bus held. -/
theorem completedCommandFlags : Obligations.CompletedCommandFlags := by
  refine ⟨fun i c s hi hb hen hneeds => ?flags, fun m => ?bits⟩
  case flags =>
    rw [wfNeedsHeld_eq] at hneeds
    have hstart : (mcmdStartBit c = true ∨ s.m.held = true) ∨ (c = 0x4#4 ∧ s.m.held = false) := by
      rcases mcmdLegal_cases c (mcmdLegal_of_encode hi) with h | h | h
      · exact Or.inl (Or.inl h)
      · exact Or.inl (Or.inr (hneeds h))
      · cases hh : s.m.held
        · exact Or.inr ⟨h, rfl⟩
        · exact Or.inl (Or.inr rfl)
    rcases hstart with hs | ⟨rfl, hh⟩
    · have hidle : mcmdNeedsHeld c = false ∨ s.m.held = true := hs.imp_left (mcmdNeedsHeld_eq_false_of_start c)
      obtain ⟨hheld, hflags⟩ := masterAfter_held (s.env.answer s.draws s.history (s.m.working c) c) c
        (m := s.m.working c) rfl rfl hs
      refine ⟨_, exec_mcmd_idle hi hb hen hidle, ?_⟩
      rw [State.completion_m, hheld]
      refine ⟨rfl, hflags, fun h => by simpa using h, fun hstop hlost => ?_⟩
      rw [hstop, hlost]
      rfl
    · exact ⟨_, (stop_cases (exec_mcmd_idle hi hb hen (Or.inl rfl))).2 hh, rfl, rfl,
        fun h => absurd (hh.symm.trans h) nofun, fun hstop => absurd hstop nofun⟩
  case bits =>
    obtain ⟨h0, h1, h2, h3, h4, h5, h6⟩ := m.stat_bits
    refine ⟨h0, h1, h2, h3, h4, ?_, ?_⟩
    · rw [h5]
      simp [Master.idleBit]
    · rw [h6]
      simp [Master.busBusyBit]

end Sys2Proof.Machine
end

section
/-!
PROOFS. The reference peripheral (40_bus_master R122): its answers, what each wire event does to it, and its register
file.
-/

namespace Sys2Proof.Machine

/-! ### Wire events -/

theorem RefPeripheral.advance_eq (p : RefPeripheral) :
    p.advance = { p with ptr := BitVec.ofNat 8 ((p.ptr.toNat + 1) % 256) } := by
  have hptr : p.ptr + 1 = BitVec.ofNat 8 ((p.ptr.toNat + 1) % 256) := by
    refine BitVec.eq_of_toNat_eq ?_
    simp [BitVec.toNat_add]
  rw [RefPeripheral.advance, hptr]

section

variable {p : RefPeripheral} {b : Byte} {rw : Bool} {k : Ack} {x : BusAddr}

theorem RefPeripheral.onEvent_own_addr :
    p.onEvent (.addr p.addr rw .ack) =
      if rw then { p with addressed := .read } else { p with addressed := .write, wc := 0 } :=
  if_pos ⟨rfl, rfl⟩

theorem RefPeripheral.onEvent_other_addr (h : x ≠ p.addr ∨ k = .nack) :
    p.onEvent (.addr x rw k) = { p with addressed := .no } := by
  refine if_neg fun ⟨hx, hk⟩ => ?_
  rcases h with h | h
  · exact h hx
  · cases h.symm.trans hk

theorem RefPeripheral.onEvent_tx (h : p.addressed = .write) : p.onEvent (.tx b k) = p.onTx b k := if_pos h

theorem RefPeripheral.onEvent_tx_unaddressed (h : p.addressed ≠ .write) : p.onEvent (.tx b k) = p := if_neg h

theorem RefPeripheral.onEvent_rx (h : p.addressed = .read) : p.onEvent (.rx b k) = p.advance := if_pos h

theorem RefPeripheral.onEvent_rx_unaddressed (h : p.addressed ≠ .read) : p.onEvent (.rx b k) = p := if_neg h

theorem RefPeripheral.onTx_pointer (h : p.wc = 0) : p.onTx b .ack = { p with ptr := b, wc := 1 } := by
  simp [RefPeripheral.onTx, h]

theorem RefPeripheral.onTx_store (h : p.wc ≠ 0) :
    p.onTx b .ack =
      { p with
        mem := p.mem.write p.ptr.toNat b, ptr := BitVec.ofNat 8 ((p.ptr.toNat + 1) % 256), wc := p.wc + 1 } := by
  simp only [RefPeripheral.onTx, if_neg h, RefPeripheral.advance_eq]

theorem RefPeripheral.onEvent_end {e : WireEvent} (he : e ∈ [WireEvent.s, .sr, .p, .lost]) :
    p.onEvent e = { p with addressed := .no } := by
  simp only [List.mem_cons, List.not_mem_nil, or_false] at he
  obtain rfl | rfl | rfl | rfl := he <;> rfl

/-! ### Answers -/

variable {f : BusAnswer} {m : Master} {c : BitVec 4}

theorem RefPeripheral.answer_addrAck : (p.answer f m c).addrAck = .ack ↔ m.sa.extractLsb' 1 7 = p.addr := by
  simp [RefPeripheral.answer]

theorem RefPeripheral.answer_txAck_start (h : mcmdStartBit c = true) :
    (p.answer f m c).txAck = .nack ↔ p.nackAt = some 0 := by
  simp [RefPeripheral.answer, h]

theorem RefPeripheral.answer_txAck_addressed (h : mcmdStartBit c = false) (hw : p.addressed = .write) :
    (p.answer f m c).txAck = .nack ↔ p.nackAt = some p.wc := by
  simp [RefPeripheral.answer, h, hw]

theorem RefPeripheral.answer_rxByte (h : mcmdStartBit c = true ∨ p.addressed = .read) :
    (p.answer f m c).rxByte = p.mem.read p.ptr.toNat := by
  simp [RefPeripheral.answer, h]

end

/-- Settles O20: its answers, then each wire event. -/
theorem referencePeripheralRules : Obligations.ReferencePeripheralRules := by
  intro p n h m c b rw k x a
  refine ⟨rfl, rfl, RefPeripheral.answer_addrAck, RefPeripheral.answer_txAck_start,
    RefPeripheral.answer_txAck_addressed, RefPeripheral.answer_rxByte, RefPeripheral.onEvent_own_addr,
    RefPeripheral.onEvent_own_addr, RefPeripheral.onEvent_other_addr (Or.inr rfl),
    fun hx => RefPeripheral.onEvent_other_addr (Or.inl hx), fun hw => ?write, RefPeripheral.onEvent_tx_unaddressed,
    fun hr => (RefPeripheral.onEvent_rx hr).trans p.advance_eq, RefPeripheral.onEvent_rx_unaddressed,
    fun e he => RefPeripheral.onEvent_end he, fun events => rfl⟩
  case write =>
    simp only [RefPeripheral.onEvent_tx hw]
    exact ⟨RefPeripheral.onTx_pointer, RefPeripheral.onTx_store, rfl⟩

/-- Settles O21, by the laws of one write. -/
theorem memoryReadAfterWrite : Obligations.MemoryReadAfterWrite := fun mem a v hw =>
  ⟨Memory.write_wf mem a v hw, Memory.read_write_same mem a v hw, fun _ hba => Memory.read_write_other mem v hba⟩

end Sys2Proof.Machine
end

section
/-!
PROOFS. A master command in work (40_bus_master R104, 41_engine_ops R141, 70_reset R280): the moves of the host, the
sequencer and the environment leave it waiting, and on the reference peripheral it completes (R122, log entry 33).
-/

namespace Sys2Proof.Machine

/-! ### The moves that leave the command waiting -/

/-- What a move keeps that does not end the master's work: all that the running command and the wait rest on. -/
structure State.StandsStill (u t : State) : Prop where
  m : t.m = u.m
  seq : t.seq = u.seq
  trace : t.trace = u.trace
  fault : t.fault = u.fault
  waited : t.waited = u.waited
  busy : t.regs.status.busy = u.regs.status.busy
  reference : (∃ p, u.env = .reference p) → ∃ p, t.env = .reference p

theorem State.StandsStill.refl (u : State) : u.StandsStill u := ⟨rfl, rfl, rfl, rfl, rfl, rfl, id⟩

/-- The host while a command runs: an access that is not admitted faults, and every other changes STATUS.OVR and the
host's own lists at most. -/
theorem hostMove_standsStill {u : State} (hb : u.regs.status.busy = true) :
    (∃ r, hostMove exec u = .fault r) ∨ ∃ t, hostMove exec u = .next t ∧ u.StandsStill t := by
  cases hh : u.host with
  | nil => exact Or.inr ⟨u, by simp only [hostMove, hh], .refl u⟩
  | cons action rest =>
    cases action with
    | write off width v =>
      rw [hostMove_write hh]
      cases ha : admitted off width
      · exact Or.inl ⟨_, memWrite_of_not_admitted ha⟩
      · refine Or.inr ⟨_, memWrite_busy (s := { u with host := rest }) ha hb, ?_⟩
        split <;> exact ⟨rfl, rfl, rfl, rfl, rfl, rfl, id⟩
    | read off width =>
      rw [hostMove_read hh]
      cases ha : admitted off width
      · exact Or.inl ⟨_, memRead_of_not_admitted ha⟩
      · exact Or.inr ⟨_, memRead_of_admitted ha, rfl, rfl, rfl, rfl, rfl, rfl, id⟩
    | poll =>
      cases hpoll : (readReg u.regs 0x04).getLsbD 0
      · exact Or.inr ⟨_, hostMove_poll_idle hh hpoll, rfl, rfl, rfl, rfl, rfl, rfl, id⟩
      · exact Or.inr ⟨u, hostMove_poll_busy hh hpoll, .refl u⟩

theorem environmentMove_standsStill (u : State) : u.StandsStill (environmentMove u) := by
  rcases environmentMove_cases u with h | ⟨p, _, _, _, h⟩ <;> rw [h]
  · exact .refl u
  · exact ⟨rfl, rfl, rfl, rfl, rfl, rfl, fun _ => ⟨_, rfl⟩⟩

theorem phaseStep_waits {f : State → State} {c : BitVec 4} {g : State → State} {u : State}
    (hi : u.seq.issued = true) (hb : u.m.busy = true) : phaseStep f c g u = .next u := by
  rw [phaseStep, if_pos hi, if_pos hb]

/-- The master works for a running command. -/
theorem running_of_working {u : State} (hI : u.Inv) (hb : u.m.busy = true) : ∃ op, u.running op := by
  cases ho : u.seq.op with
  | none => exact absurd (hb.symm.trans (hI.idle_bus ho).2.2.1) nofun
  | some op => exact ⟨op, hI.busy_iff_op.trans (congrArg Option.isSome ho), ho⟩

/-- The sequencer's phase is in `wait_idle` (41_engine_ops R141). -/
theorem sequencerMove_waits {u : State} (hI : u.Inv) (hb : u.m.busy = true) : sequencerMove exec u = .next u := by
  obtain ⟨op, hrun⟩ := running_of_working hI hb
  obtain ⟨hbusy, ho⟩ := hrun
  have hissued := (hI.busy_issued hb).1
  obtain ⟨f, _, hbody⟩ := commandBody_of_phaseCode (hI.phase_of_op op ho) (hI.issued_code op ho hissued)
  rw [sequencerMove_running ⟨hbusy, ho⟩, exec_of_running hbusy ho, hbody, phaseStep_waits hissued hb]

/-! ### One step -/

section

variable {s : State}

/-- A step of another agent than the master and reset: a host access faults, or the master goes on working. -/
theorem step_standsStill (hI : s.Inv) (hf : s.fault = none) (hb : s.m.busy = true) (hm : nextAgent s ≠ .master)
    (hr : nextAgent s ≠ .reset) :
    (∃ r, step s = .fault r) ∨
      ∃ t, step s = .next t ∧ (scheduled s).StandsStill t ∧ (nextAgent s = .sequencer → t = scheduled s) := by
  have hS := scheduled_inv hI
  rw [step_eq_agentMove hf]
  cases hn : nextAgent s with
  | host =>
    obtain ⟨op, hbusy, _⟩ := running_of_working hS hb
    exact (hostMove_standsStill hbusy).imp_right fun ⟨t, ht, hstill⟩ => ⟨t, ht, hstill, nofun⟩
  | sequencer => exact Or.inr ⟨_, sequencerMove_waits hS hb, .refl _, fun _ => rfl⟩
  | environment => exact Or.inr ⟨_, rfl, environmentMove_standsStill _, nofun⟩
  | master => exact absurd hn hm
  | reset => exact absurd hn hr

/-- The step of the master completes its command, and a reset abandons it. -/
theorem step_ends_work (hI : s.Inv) (hf : s.fault = none) (hb : s.m.busy = true)
    (hn : nextAgent s = .master ∨ nextAgent s = .reset) : ∃ t, step s = .next t ∧ t.m.busy = false := by
  rw [step_eq_agentMove hf]
  rcases hn with hn | hn <;> rw [hn]
  · obtain ⟨i, hd⟩ := (mcmdLegal_iff _).mp (mcmdLegal_of_busy hI hb)
    exact ⟨_, (masterMove_busy (s := scheduled s) hb hd).trans
      (exec_mcmd_working (s := scheduled s) (encode_of_decodeMcmd hd) hb rfl), rfl⟩
  · exact ⟨_, rfl, rfl⟩

/-! ### The bounded wait on the reference peripheral (BUS_LIVE) -/

theorem run_succ_of_next {t : State} (n : Nat) (h : step s = .next t) :
    Host.Core.run Sys2Proof.core (n + 1) s = Host.Core.run Sys2Proof.core n t := by
  have h' : Sys2Proof.core.step s = .next t := h
  simp only [Host.Core.run, h']

theorem run_one_of_fault {r : Fault} (h : step s = .fault r) : Host.Core.run Sys2Proof.core 1 s = .fault r := by
  have h' : Sys2Proof.core.step s = .fault r := h
  simp only [Host.Core.run, h']

/-- After `n` steps in which the master waits, its work ends in the next one, unless a fault came before. -/
def State.EndsAfter (s : State) (n : Nat) : Prop :=
  (∃ u t : State, Host.Core.run Sys2Proof.core n s = .next u ∧ u.m = s.m ∧ u.trace = s.trace ∧
      (nextAgent u = .master ∨ nextAgent u = .reset) ∧ step u = .next t ∧ t.m.busy = false) ∨
    ∃ r, Host.Core.run Sys2Proof.core n s = .fault r

theorem endsAfter_zero (hI : s.Inv) (hf : s.fault = none) (hb : s.m.busy = true)
    (hn : nextAgent s = .master ∨ nextAgent s = .reset) : s.EndsAfter 0 := by
  obtain ⟨t, ht, hbusy⟩ := step_ends_work hI hf hb hn
  exact Or.inl ⟨s, t, rfl, rfl, rfl, hn, ht, hbusy⟩

theorem endsAfter_succ {t : State} {n : Nat} (h : step s = .next t) (hm : t.m = s.m) (ht : t.trace = s.trace)
    (hends : t.EndsAfter n) : s.EndsAfter (n + 1) := by
  unfold State.EndsAfter
  rw [run_succ_of_next n h, ← hm, ← ht]
  exact hends

theorem scheduled_waited (hb : s.m.busy = true) (hm : nextAgent s ≠ .master) :
    (scheduled s).waited = s.waited + 1 := by
  simp [scheduled, hb, hm]

end

/-- Each step that leaves the master waiting is counted, and past the bound the master moves or a reset does. -/
theorem exists_endsAfter {s : State} (k : Nat) (hI : s.Inv) (hf : s.fault = none) (hp : ∃ p, s.env = .reference p)
    (hb : s.m.busy = true) (hk : Config.freeWait s.trace < s.waited + k) : ∃ n ≤ k, s.EndsAfter n := by
  induction k generalizing s with
  | zero =>
    have hmust : mustComplete s = true := (mustComplete_iff s).mpr ⟨hp, hb, hk⟩
    exact ⟨0, le_rfl, endsAfter_zero hI hf hb (nextAgent_of_mustComplete s hmust)⟩
  | succ k ih =>
    by_cases hn : nextAgent s = .master ∨ nextAgent s = .reset
    · exact ⟨0, Nat.zero_le _, endsAfter_zero hI hf hb hn⟩
    · obtain ⟨hm, hr⟩ := not_or.mp hn
      rcases step_standsStill hI hf hb hm hr with ⟨r, h⟩ | ⟨t, h, hstill, _⟩
      · exact ⟨1, Nat.le_add_left 1 k, Or.inr ⟨r, run_one_of_fault h⟩⟩
      · have hwaited : t.waited = s.waited + 1 := hstill.waited.trans (scheduled_waited hb hm)
        have htrace : t.trace = s.trace := hstill.trace
        obtain ⟨n, hle, hends⟩ := ih (stepKeepsTheInvariant s t hI h) (hstill.fault.trans hf) (hstill.reference hp)
          ((congrArg Master.busy hstill.m).trans hb) (by rw [hwaited, htrace]; omega)
        exact ⟨n + 1, Nat.succ_le_succ hle, endsAfter_succ h hstill.m htrace hends⟩

/-- Settles O49: what one step leaves standing, and the count of such steps against the bound of the wire trace. -/
theorem wedgedBusKeepsBusy : Obligations.WedgedBusKeepsBusy := by
  refine ⟨fun s t hI hb h hm hr => ?step, fun s p hI hf he hb => ?bound⟩
  case step =>
    obtain ⟨op, hbusy, _⟩ := running_of_working hI hb
    rcases step_standsStill hI (step_next h).1 hb hm hr with ⟨r, h'⟩ | ⟨u, h', hstill, hseq⟩ <;>
      cases h'.symm.trans h
    exact ⟨hbusy, hstill.busy.trans hbusy, hstill.m, hstill.seq, hstill.trace, hseq⟩
  case bound => exact exists_endsAfter _ hI hf ⟨p, he⟩ hb (by omega)

end Sys2Proof.Machine
end

section
/-!
PROOFS. The engine commands phase by phase (41_engine_ops R140 to R162): what each phase sets before it issues, how
it is judged, and the return of each command.
-/

namespace Sys2Proof.Machine

/-! ### Acceptance (41_engine_ops R142) -/

theorem HostCmd.usesBus_iff_code (op : HostCmd) : op.usesBus = true ↔ 2 ≤ op.code.toNat ∧ op.code.toNat ≤ 9 := by
  cases op <;> decide

theorem exec_accepts {op : HostCmd} {s : State} (hb : s.regs.status.busy = false)
    (hcount : ¬((op = .burstRead ∨ op = .burstWrite) ∧ bufLen < s.regs.count.toNat))
    (hbus : op.usesBus = true → s.regs.status.initDone = true) : exec op.instr s = .next (s.accepted op) := by
  rw [exec_of_idle op hb, commandStart_of_count hcount, if_neg fun h => absurd (hbus h.1) (by simp [h.2])]

/-- Settles O10: the check of INIT_DONE, then the accepted state. -/
theorem acceptanceOfCommands : Obligations.AcceptanceOfCommands := by
  intro op s hb hcount
  rw [← op.usesBus_iff_code]
  refine ⟨fun hbus hinit => ?fault, fun h => exec_accepts hb hcount fun hbus => h.resolve_left fun hn => hn hbus⟩
  case fault => rw [exec_of_idle op hb, commandStart_of_count hcount, if_pos ⟨hbus, hinit⟩]

/-! ### The two steps of a phase (41_engine_ops R140, R141) -/

section

variable {f g : State → State} {c : BitVec 4} {s : State}

theorem phaseStep_issues {m : Master} (hi : s.seq.issued = false) (hf : f s = s.setMaster m) (hen : m.en = true)
    (hl : mcmdLegal c = true) (hh : mcmdNeedsHeld c = true → m.held = true) :
    phaseStep f c g s = .next (s.phaseIssued m c) := by
  simp only [phaseStep, hi, Bool.false_eq_true, if_false, hf, issue_ok (s := s.setMaster m) hen hl hh]
  rfl

theorem phaseStep_judges (hi : s.seq.issued = true) (hb : s.m.busy = false) :
    phaseStep f c g s = .next (g (markIssued false s)) := by
  simp only [phaseStep, hi, hb, if_true, Bool.false_eq_true, if_false]

end

/-! ### What a phase sets -/

/-- The peripheral that a command's transaction addresses, and the register byte of its START_ADDR_W. -/
def addressTarget (op : HostCmd) (s : State) : BusAddr × Byte :=
  match op with
  | .readAccel => (s.regs.imuSa, orderReg Config.sensorMap.accData s.seq.t.toNat)
  | .readGyro => (s.regs.imuSa, orderReg Config.sensorMap.gyrData s.seq.t.toNat)
  | .scaleAccel => (s.regs.imuSa, Config.sensorMap.accCfg)
  | .scaleGyro => (s.regs.imuSa, Config.sensorMap.gyrCfg)
  | _ => (s.seq.sa, s.seq.ra)

/-- The master as the running command's phase sets it before its issue (41_engine_ops R146, R150, R155, R160). -/
def phaseMaster (op : HostCmd) (s : State) : Master :=
  match s.seq.phase with
  | .startAddrW => { s.m with sa := addrByte (addressTarget op s).1 false, dr := (addressTarget op s).2 }
  | .startAddrR => { s.m with sa := addrByte (addressTarget op s).1 true }
  | .sendByte => { s.m with dr := if op = .writeReg then s.seq.wd else bufByte s.regs s.seq.i.toNat }
  | _ => s.m

theorem phaseMaster_frame (op : HostCmd) (s : State) :
    (phaseMaster op s).en = s.m.en ∧ (phaseMaster op s).held = s.m.held := by
  unfold phaseMaster
  split <;> exact ⟨rfl, rfl⟩

/-- A phase that has a master command is one `phaseStep` with the settings of `phaseMaster`. -/
theorem commandBody_eq_phaseStep {op : HostCmd} {s : State} {c : BitVec 4} (hp : phaseOf op s.seq.phase = true)
    (hc : phaseCode op s.seq = some c) :
    ∃ f : State → State, f s = s.setMaster (phaseMaster op s) ∧
      commandBody op s = phaseStep f c (phaseJudge op s.seq.phase) s := by
  cases op <;> cases hq : s.seq.phase <;> simp [hq, phaseOf] at hp <;> simp [hq, phaseCode] at hc <;> subst hc <;>
    simp only [commandBody, readRegBody, writeRegBody, burstReadBody, burstWriteBody, sampleBody, scaleBody,
      addressPhase, rdtxWrite, rdtxRead, stopAbortStep, phaseMaster, hq] <;>
    exact ⟨_, by rfl, rfl⟩

section

variable {op : HostCmd} {s : State} {p : Phase}

/-- The first step of a phase: its settings and its issue. -/
theorem exec_issues {c : BitVec 4} (hrun : s.running op) (h : s.mayIssue p) (hp : phaseOf op p = true)
    (hc : phaseCode op s.seq = some c) (hheld : mcmdNeedsHeld c = true → s.m.held = true) :
    exec op.instr s = .next (s.phaseIssued (phaseMaster op s) c) := by
  obtain ⟨rfl, hi, hen⟩ := h
  obtain ⟨hmen, hmheld⟩ := phaseMaster_frame op s
  obtain ⟨f, hf, hbody⟩ := commandBody_eq_phaseStep hp hc
  rw [exec_of_running hrun.1 hrun.2, hbody]
  exact phaseStep_issues hi hf (hmen.trans hen) (mcmdLegal_of_phaseCode hc) fun hn => hmheld.trans (hheld hn)

/-- The last step of a phase: its judgement. -/
theorem exec_judges {c : BitVec 4} (hrun : s.running op) (h : s.mayJudge p) (hp : phaseOf op p = true)
    (hc : phaseCode op s.seq = some c) : exec op.instr s = .next (phaseJudge op p (markIssued false s)) := by
  obtain ⟨rfl, hi, hb⟩ := h
  obtain ⟨f, _, hbody⟩ := commandBody_eq_phaseStep hp hc
  rw [exec_of_running hrun.1 hrun.2, hbody, phaseStep_judges hi hb]

end

section

variable {op : HostCmd} {s : State}

theorem phaseMaster_startAddrW (hq : s.seq.phase = .startAddrW) :
    phaseMaster op s = { s.m with sa := addrByte (addressTarget op s).1 false, dr := (addressTarget op s).2 } := by
  simp only [phaseMaster, hq]

theorem phaseMaster_startAddrR (hq : s.seq.phase = .startAddrR) :
    phaseMaster op s = { s.m with sa := addrByte (addressTarget op s).1 true } := by
  simp only [phaseMaster, hq]

theorem phaseMaster_sendByte (hq : s.seq.phase = .sendByte) :
    phaseMaster op s = { s.m with dr := if op = .writeReg then s.seq.wd else bufByte s.regs s.seq.i.toNat } := by
  simp only [phaseMaster, hq]

theorem phaseMaster_recvByte (hq : s.seq.phase = .recvByte) : phaseMaster op s = s.m := by
  simp only [phaseMaster, hq]

theorem phaseMaster_stopAbort (hq : s.seq.phase = .stopAbort) : phaseMaster op s = s.m := by
  simp only [phaseMaster, hq]

theorem phaseCode_startAddrW (hq : s.seq.phase = .startAddrW) : phaseCode op s.seq = some 0x3 := by
  simp only [phaseCode, hq]

theorem phaseCode_stopAbort (hq : s.seq.phase = .stopAbort) : phaseCode op s.seq = some 0x4 := by
  simp only [phaseCode, hq]

theorem phaseCode_readTransaction (hop : op ≠ .burstRead) (hq : s.seq.phase = .startAddrR) :
    phaseCode op s.seq = some 0x7 := by
  simp only [phaseCode, hq, if_neg hop]

/-- A byte that BURST_READ receives: in START_ADDR_R the first one, in RECV_BYTE a later one. -/
theorem phaseCode_received (hq : s.seq.phase = .startAddrR ∨ s.seq.phase = .recvByte) :
    phaseCode .burstRead s.seq = some (rxNow s) := by
  rcases hq with hq | hq <;> simp only [phaseCode, hq, if_true] <;> rfl

theorem phaseCode_sendByte_writeReg (hq : s.seq.phase = .sendByte) : phaseCode .writeReg s.seq = some 0x5 := by
  simp only [phaseCode, hq, if_true]

theorem phaseCode_sendByte_burstWrite (hq : s.seq.phase = .sendByte) :
    phaseCode .burstWrite s.seq = some (txNow s) := by
  simp only [phaseCode, hq, reduceCtorEq, if_false]
  rfl

/-- The phases in which a master command is judged. -/
theorem exists_phaseCode (op : HostCmd) {q : Seq}
    (hq : q.phase ∈ [Phase.startAddrW, .startAddrR, .recvByte, .sendByte, .stopAbort]) :
    ∃ c, phaseCode op q = some c := by
  cases h : q.phase <;> simp only [phaseCode, h] <;> simp [h] at hq
  case startAddrR | sendByte => split <;> exact ⟨_, rfl⟩
  all_goals exact ⟨_, rfl⟩

/-! ### The read transaction (41_engine_ops R146) -/

theorem orderReg_of_sensorOrder {regs : Axes HiLo} {t : Nat} {r : Byte} (h : (sensorOrder regs)[t]? = some r) :
    orderReg regs t = r := by
  obtain ⟨ht, hr⟩ := List.getElem?_eq_some_iff.mp h
  have hlt : t < 6 := ht
  rcases (by omega : t = 0 ∨ t = 1 ∨ t = 2 ∨ t = 3 ∨ t = 4 ∨ t = 5) with rfl | rfl | rfl | rfl | rfl | rfl <;>
    exact hr

theorem addressTarget_of_readTarget {a : BusAddr} {reg : Byte} (h : readTarget op s = some (a, reg)) :
    addressTarget op s = (a, reg) := by
  have hsample {regs : Axes HiLo}
      (h : (sensorOrder regs)[s.seq.t.toNat]?.map (fun r => (s.regs.imuSa, r)) = some (a, reg)) :
      (s.regs.imuSa, orderReg regs s.seq.t.toNat) = (a, reg) := by
    obtain ⟨r, hr, heq⟩ := Option.map_eq_some_iff.mp h
    rw [orderReg_of_sensorOrder hr, heq]
  cases op
  case readAccel | readGyro => exact hsample h
  case readReg | scaleAccel | scaleGyro => exact Option.some.inj h
  all_goals cases h

theorem mem_readCommands_of_readTarget {a : BusAddr} {reg : Byte} (h : readTarget op s = some (a, reg)) :
    op ∈ [HostCmd.readReg, .readAccel, .readGyro, .scaleAccel, .scaleGyro] := by
  cases op
  case init | writeReg | burstRead | burstWrite | estimate => cases h
  all_goals decide

/-- The rules of the five commands have both phases. -/
theorem phaseOf_readCommands : ∀ op ∈ [HostCmd.readReg, .readAccel, .readGyro, .scaleAccel, .scaleGyro],
    phaseOf op .startAddrW = true ∧ phaseOf op .startAddrR = true ∧ op ≠ .burstRead := by
  decide

theorem phaseJudge_readCommands_startAddrW (u : State)
    (hop : op ∈ [HostCmd.readReg, .readAccel, .readGyro, .scaleAccel, .scaleGyro]) :
    phaseJudge op .startAddrW u = goto .startAddrR u := by
  cases op
  case init | writeReg | burstRead | burstWrite | estimate => simp at hop
  all_goals rfl

theorem phaseJudge_readCommands_startAddrR (u : State)
    (hop : op ∈ [HostCmd.readReg, .readAccel, .readGyro, .scaleAccel, .scaleGyro])
    (hacc : op ≠ .readAccel) (hgyr : op ≠ .readGyro) :
    phaseJudge op .startAddrR u =
      goto (if op = .readReg then .done else .compute) (u.setSeq { u.seq with rx := !u.m.error }) := by
  cases op
  case init | writeReg | burstRead | burstWrite | estimate => simp at hop
  case readAccel => exact absurd rfl hacc
  case readGyro => exact absurd rfl hgyr
  all_goals rfl

end

/-- Settles O23: both phases' settings and judgements, in the commands whose rules have them. -/
theorem readTransactionPhases : Obligations.ReadTransactionPhases := by
  intro op s a reg hrun htarget
  have hop := mem_readCommands_of_readTarget htarget
  obtain ⟨hpw, hpr, hburst⟩ := phaseOf_readCommands op hop
  refine ⟨fun h => ?issueW, fun h => ?judgeW, fun h => ?issueR, fun h hacc hgyr => ?judgeR⟩
  case issueW =>
    rw [exec_issues hrun h hpw (phaseCode_startAddrW h.1) nofun, phaseMaster_startAddrW h.1,
      addressTarget_of_readTarget htarget]
  case judgeW =>
    rw [exec_judges hrun h hpw (phaseCode_startAddrW h.1), phaseJudge_readCommands_startAddrW _ hop]
    rfl
  case issueR =>
    rw [exec_issues hrun h hpr (phaseCode_readTransaction hburst h.1) nofun, phaseMaster_startAddrR h.1,
      addressTarget_of_readTarget htarget]
  case judgeR =>
    rw [exec_judges hrun h hpr (phaseCode_readTransaction hburst h.1),
      phaseJudge_readCommands_startAddrR _ hop hacc hgyr]
    rfl

/-! ### ABORT (41_engine_ops R152) -/

theorem abort_markIssued (s : State) : abort (markIssued false s) = s.aborting := rfl

theorem unlessError_of_error {g : State → State} {s : State} (he : s.m.error = true) : unlessError g s = abort s := by
  rw [unlessError, if_pos he]

theorem unlessError_of_no_error {g : State → State} {s : State} (he : s.m.error = false) :
    unlessError g s = g s := by
  rw [unlessError, he, if_neg Bool.false_ne_true]

/-- Every phase of WRITE_REG and the bursts but STOP_ABORT answers an error with ABORT. -/
theorem phaseJudge_of_error {op : HostCmd} {p : Phase} {s : State}
    (hop : op ∈ [HostCmd.writeReg, .burstRead, .burstWrite])
    (hp : p ∈ [Phase.startAddrW, .startAddrR, .recvByte, .sendByte]) (hpo : phaseOf op p = true)
    (he : s.m.error = true) : phaseJudge op p s = abort s := by
  have hreceived : received s = abort s := unlessError_of_error he
  cases op
  case writeReg | burstWrite =>
    cases p
    case startAddrW | sendByte => exact unlessError_of_error he
    all_goals simp [phaseOf] at hp hpo
  case burstRead =>
    cases p
    case startAddrW => exact unlessError_of_error he
    case startAddrR | recvByte => exact hreceived
    all_goals simp [phaseOf] at hp hpo
  all_goals simp at hop

/-- The DONE step of a command that writes RESULT (41_engine_ops R143, R150). -/
theorem exec_resultDone {op : HostCmd} {s : State} (hop : op ∈ [HostCmd.writeReg, .burstRead, .burstWrite])
    (hrun : s.running op) (hq : s.seq.phase = .done) :
    exec op.instr s = .next (s.returned { s.regs with result := s.seq.err }) := by
  have hbody : commandBody op s = resultDone s := by
    cases op
    case writeReg => simp only [commandBody, writeRegBody, hq]
    case burstRead => simp only [commandBody, burstReadBody, hq]
    case burstWrite => simp only [commandBody, burstWriteBody, hq]
    all_goals simp at hop
  rw [exec_of_running hrun.1 hrun.2, hbody]
  rfl

theorem phaseOf_stopAbort : ∀ op ∈ [HostCmd.writeReg, .burstRead, .burstWrite], phaseOf op .stopAbort = true := by
  decide

/-- Settles O26: every phase's judgement of an error, then STOP_ABORT and the DONE step. -/
theorem abortReleasesBus : Obligations.AbortReleasesBus := by
  intro op p s hop hrun
  have hstop := phaseOf_stopAbort op hop
  refine ⟨fun hp hpo h he => ?failed, fun h => ?issue, fun h => ?judge, exec_resultDone hop hrun⟩
  case failed =>
    have hmem : s.seq.phase ∈ [Phase.startAddrW, .startAddrR, .recvByte, .sendByte, .stopAbort] := by
      rw [h.1]
      exact List.mem_append_left [Phase.stopAbort] hp
    obtain ⟨c, hc⟩ := exists_phaseCode op hmem
    rw [exec_judges hrun h hpo hc, phaseJudge_of_error (s := markIssued false s) hop hp hpo he, abort_markIssued]
  case issue =>
    rw [exec_issues hrun h hstop (phaseCode_stopAbort h.1) nofun, phaseMaster_stopAbort h.1]
  case judge =>
    rw [exec_judges hrun h hstop (phaseCode_stopAbort h.1)]
    cases op <;> rfl

/-! ### The address phase of WRITE_REG and the bursts -/

section

variable {op : HostCmd} {s : State} (hop : op ∈ [HostCmd.writeReg, .burstRead, .burstWrite]) (hrun : s.running op)

include hop hrun

theorem exec_issues_address (h : s.mayIssue .startAddrW) :
    exec op.instr s = .next (s.phaseIssued { s.m with sa := addrByte s.seq.sa false, dr := s.seq.ra } 0x3) := by
  have htable : phaseOf op .startAddrW = true ∧ addressTarget op s = (s.seq.sa, s.seq.ra) := by
    cases op <;> simp at hop <;> exact ⟨rfl, rfl⟩
  rw [exec_issues hrun h htable.1 (phaseCode_startAddrW h.1) nofun, phaseMaster_startAddrW h.1, htable.2]

/-- BURST_READ goes on to read, the others to send. -/
theorem exec_judges_address (h : s.mayJudge .startAddrW) (he : s.m.error = false) :
    exec op.instr s = .next (s.atPhase (if op = .burstRead then .startAddrR else .sendByte)) := by
  have htable : phaseOf op .startAddrW = true ∧ ∀ u, phaseJudge op .startAddrW u =
      unlessError (goto (if op = .burstRead then .startAddrR else .sendByte)) u := by
    cases op <;> simp at hop <;> exact ⟨rfl, fun _ => rfl⟩
  rw [exec_judges hrun h htable.1 (phaseCode_startAddrW h.1), htable.2,
    unlessError_of_no_error (s := markIssued false s) he]
  rfl

end

/-! ### INIT, READ_REG and WRITE_REG (41_engine_ops R145, R147, R150) -/

/-- Settles O22: COMPUTE enables the master, DONE sets INIT_DONE. -/
theorem initCompletes : Obligations.InitCompletes := by
  intro s hrun
  have hexec : exec .init s = initBody s := exec_of_running (op := .init) hrun.1 hrun.2
  refine ⟨fun hq => ?compute, fun hq => ?done⟩ <;> simp only [hexec, initBody, hq]
  case compute => rfl
  case done => rfl

/-- Settles O24: DONE takes the byte received, or draws a free one. -/
theorem readRegCompletes : Obligations.ReadRegCompletes := by
  intro s hrun hq
  have hexec : exec .readReg s = readRegBody s := exec_of_running (op := .readReg) hrun.1 hrun.2
  refine ⟨fun hrx => ?received, fun hrx => ?free⟩ <;> simp only [hexec, readRegBody, hq, rdtxByte, rdtxTaken, hrx]
  case received => rfl
  case free => rfl

/-- Settles O25: the two phases without an error, and DONE. -/
theorem writeRegPhases : Obligations.WriteRegPhases := by
  intro s hrun
  refine ⟨exec_issues_address (op := .writeReg) (by decide) hrun,
    exec_judges_address (op := .writeReg) (by decide) hrun, fun h hheld => ?issueByte, fun h he => ?judgeByte,
    exec_resultDone (op := .writeReg) (by decide) hrun⟩
  case issueByte =>
    refine (exec_issues (op := .writeReg) hrun h rfl (phaseCode_sendByte_writeReg h.1)
      fun _ => hheld).trans ?_
    rw [phaseMaster_sendByte h.1, if_pos rfl]
  case judgeByte =>
    refine (exec_judges (op := .writeReg) hrun h rfl (phaseCode_sendByte_writeReg h.1)).trans ?_
    exact congrArg _ (unlessError_of_no_error he)

/-! ### The bursts (41_engine_ops R155 to R162) -/

theorem rxcode_first (n : Byte) : rxcode 0 n.toNat = if n = 1 then 0x7 else 0xB := by
  have hn : n.toNat = 1 ↔ n = 1 := by bv_omega
  simp only [rxcode, if_true, hn]

theorem rxcode_later {i : Nat} (n : Nat) (hi : 0 < i) : rxcode i n = if i + 1 = n then 0x5 else 0x9 := by
  rw [rxcode, if_neg (by omega)]

/-- The master acknowledges every byte but the last. -/
theorem mcmdAckBit_rxcode {i n : Nat} (hi : i < n) : mcmdAckBit (rxcode i n) = decide (i + 1 < n) := by
  rcases Nat.eq_zero_or_pos i with rfl | hpos
  · by_cases hn : n = 1
    · rw [rxcode, if_pos rfl, if_pos hn, decide_eq_false (by omega)]; rfl
    · rw [rxcode, if_pos rfl, if_neg hn, decide_eq_true (by omega)]; rfl
  · by_cases hn : i + 1 = n
    · rw [rxcode_later n hpos, if_pos hn, decide_eq_false (by omega)]; rfl
    · rw [rxcode_later n hpos, if_neg hn, decide_eq_true (by omega)]; rfl

/-- Settles O29: the first byte, the later ones, and the bits of their codes. -/
theorem burstCommandSelection : Obligations.BurstCommandSelection := by
  intro i n hi
  rw [mcmdAckBit_rxcode hi, mcmdStopBit_rxcode, decide_eq_true_iff, decide_eq_true_iff]
  refine ⟨?_, ?_, fun _ hpos _ => ?_, fun _ _ => ?_, by omega, by omega, fun _ => ?_, fun _ => ?_⟩
  · rintro rfl rfl; rfl
  · rintro hn rfl
    rw [rxcode, if_pos rfl, if_neg (by omega)]
  · rw [rxcode_later n hpos, if_neg (by omega)]
  · rw [rxcode_later n (by omega), if_pos (by omega)]
  · rw [txcode, if_pos (by omega)]
  · rw [txcode, if_neg (by omega)]

theorem nextByte_eq (more : Phase) (s : State) :
    nextByte more s =
      State.atPhase
        { s with seq := { s.seq with i := if s.seq.i.toNat + 1 = s.seq.n.toNat then s.seq.i else s.seq.i + 1 } }
        (if s.seq.i.toNat + 1 = s.seq.n.toNat then .done else more) := by
  unfold nextByte
  split <;> rfl

/-- Settles O27: the address, the receive codes, and the store of each byte. -/
theorem burstReadPhases : Obligations.BurstReadPhases := by
  intro s hrun _
  refine ⟨exec_issues_address (op := .burstRead) (by decide) hrun,
    exec_judges_address (op := .burstRead) (by decide) hrun, fun h hi => ?issueFirst, fun h hheld hpos => ?issueLater,
    fun h he _ => ?judge, exec_resultDone (op := .burstRead) (by decide) hrun⟩
  case issueFirst =>
    have hcode : rxNow s = if s.seq.n = 1 then 0x7 else 0xB := by rw [rxNow, hi]; exact rxcode_first _
    have hstart : mcmdNeedsHeld (if s.seq.n = 1 then 0x7 else 0xB) = false := by split <;> rfl
    refine (exec_issues (op := .burstRead) hrun h rfl (phaseCode_received (Or.inl h.1)) ?_).trans ?_
    · rw [hcode, hstart]; nofun
    · rw [phaseMaster_startAddrR h.1, hcode]; rfl
  case issueLater =>
    refine (exec_issues (op := .burstRead) hrun h rfl (phaseCode_received (Or.inr h.1))
      fun _ => hheld).trans ?_
    rw [phaseMaster_recvByte h.1, rxNow, rxcode_later _ hpos]
  case judge =>
    have hjudge : exec .burstRead s = .next (received (markIssued false s)) := by
      rcases h with h | h
      · exact exec_judges (op := .burstRead) hrun h rfl (phaseCode_received (Or.inl h.1))
      · exact exec_judges (op := .burstRead) hrun h rfl (phaseCode_received (Or.inr h.1))
    rw [hjudge, received, unlessError_of_no_error (s := markIssued false s) he, nextByte_eq]
    rfl

/-- Settles O28: the address, and each byte of BUF with its transmit code. -/
theorem burstWritePhases : Obligations.BurstWritePhases := by
  intro s hrun _
  refine ⟨exec_issues_address (op := .burstWrite) (by decide) hrun,
    exec_judges_address (op := .burstWrite) (by decide) hrun, fun hi h hheld => ?issueByte, fun h he _ => ?judgeByte,
    exec_resultDone (op := .burstWrite) (by decide) hrun⟩
  case issueByte =>
    have hbyte : bufByte s.regs s.seq.i.toNat = s.regs.buf[s.seq.i.toNat] := by simp [bufByte, hi]
    refine (exec_issues (op := .burstWrite) hrun h rfl (phaseCode_sendByte_burstWrite h.1)
      fun _ => hheld).trans ?_
    rw [phaseMaster_sendByte h.1, if_neg nofun, hbyte, txNow, txcode]
  case judgeByte =>
    refine (exec_judges (op := .burstWrite) hrun h rfl (phaseCode_sendByte_burstWrite h.1)).trans ?_
    refine congrArg _ ((unlessError_of_no_error (s := markIssued false s) he).trans ?_)
    rw [nextByte_eq]
    rfl

/-- Settles O30: the acceptance goes to DONE, and DONE returns the error code 0 that it has set. -/
theorem burstOfNoBytes : Obligations.BurstOfNoBytes := by
  intro op s hop hb hinit hcount
  have hmem : op ∈ [HostCmd.writeReg, .burstRead, .burstWrite] := by rcases hop with rfl | rfl <;> decide
  have haccept : exec op.instr s = .next (s.accepted op) :=
    exec_accepts hb (by simp [hcount]) fun _ => hinit
  have hphase : (s.accepted op).seq.phase = .done := by
    simp only [State.accepted, firstPhase_burst hop, hcount, if_true]
  exact ⟨_, _, haccept, exec_resultDone hmem ⟨rfl, rfl⟩ hphase, rfl, rfl, rfl, rfl, rfl, rfl, rfl⟩

end Sys2Proof.Machine
end

section
/-!
PROOFS. Runs along an order of agents that is laid down (00_scope R6, 20_memory R71): the acceptance of a command, one
whole phase in the turns of the sequencer, the master and the sequencer, the return, and the turns that change nothing.
-/

namespace Sys2Proof.Machine

/-! ### Runs -/

/-- The machine goes from `s` to `t` in `n` steps. -/
def State.RunsTo (s : State) (n : Nat) (t : State) : Prop := Host.Core.run Sys2Proof.core n s = .next t

theorem State.RunsTo.refl (s : State) : s.RunsTo 0 s := rfl

theorem State.RunsTo.of_step {s t u : State} {n : Nat} (h : step s = .next t) (hrest : t.RunsTo n u) :
    s.RunsTo (n + 1) u :=
  (run_succ_of_next n h).trans hrest

theorem State.RunsTo.trans {s t u : State} {j k : Nat} (h : s.RunsTo j t) (hrest : t.RunsTo k u) :
    s.RunsTo (j + k) u := by
  induction j generalizing s with
  | zero =>
    cases h
    rwa [Nat.zero_add]
  | succ j ih =>
    cases hstep : step s with
    | next v =>
      rw [State.RunsTo, run_succ_of_next j hstep] at h
      rw [Nat.add_right_comm]
      exact .of_step hstep (ih h)
    | fault r | refused r =>
      have hcore : Sys2Proof.core.step s = _ := hstep
      simp only [State.RunsTo, Host.Core.run, hcore] at h
      cases h

theorem State.RunsTo.trans_exists {s t : State} {j k : Nat} {P : State → Prop} (h : s.RunsTo j t)
    (hrest : ∃ u, t.RunsTo k u ∧ P u) : ∃ u, s.RunsTo (j + k) u ∧ P u := by
  obtain ⟨u, hu, hP⟩ := hrest
  exact ⟨u, h.trans hu, hP⟩

/-! ### One turn -/

/-- The bookkeeping of a run: the order of agents still to come, the wait, the draw counter and the past steps. -/
def State.booked (s : State) (l : List Agent) (w n : Nat) (q : List PastStep) : State :=
  { s with sched := l, waited := w, draws := n, past := q }

/-- The state in which `a` makes the move that an order with `a` before `l` gives it. -/
def State.turned (s : State) (a : Agent) (l : List Agent) : State := s.booked l 0 s.draws (s.past ++ [pastStep a s])

section

variable {s : State} {a : Agent} {l : List Agent}

/-- The agent laid down moves, if the master is idle or it is the master's turn anyhow. -/
theorem step_turned (hf : s.fault = none) (hs : s.sched = a :: l) (hb : s.m.busy = false ∨ a = .master) :
    step s = agentMove exec a (s.turned a l) := by
  have hchosen : chosenAgent s = a := by rw [chosenAgent, hs, List.headD_cons]
  obtain ⟨hpre, hnext⟩ : preempted s = false ∧ nextAgent s = a := by
    rcases hb with hb | rfl
    · exact hchosen ▸ nextAgent_of_idle s hb
    · have hpre : preempted s = false := by simp [preempted, hchosen]
      exact ⟨hpre, by rw [nextAgent, hpre, if_neg Bool.false_ne_true, hchosen]⟩
  have hwait : (s.m.busy && a != .master) = false := by rcases hb with hb | rfl <;> simp [*]
  rw [step_eq_agentMove hf, hnext]
  simp only [scheduled, hpre, hnext, hwait, hs, Bool.false_eq_true, if_false, List.tail_cons, reduceCtorEq,
    Nat.add_zero]
  rfl

theorem step_sequencer {op : HostCmd} (hf : s.fault = none) (hs : s.sched = .sequencer :: l) (hb : s.m.busy = false)
    (hrun : s.running op) : step s = exec op.instr (s.turned .sequencer l) :=
  (step_turned hf hs (Or.inl hb)).trans (sequencerMove_running (s := s.turned .sequencer l) hrun)

/-- The master's turn completes its command. -/
theorem step_master (hf : s.fault = none) (hs : s.sched = .master :: l) (hb : s.m.busy = true)
    (hl : mcmdLegal s.m.cmd = true) :
    ∃ n h, step s = .next ((s.turned .master l).completion (s.env.answer n h s.m s.m.cmd) s.m.cmd s.m) := by
  obtain ⟨i, hd⟩ := (mcmdLegal_iff _).mp hl
  exact ⟨_, _, (step_turned hf hs (Or.inr rfl)).trans ((masterMove_busy (s := s.turned .master l) hb hd).trans
    (exec_mcmd_working (s := s.turned .master l) (encode_of_decodeMcmd hd) hb rfl))⟩

/-- With no command running and the master idle, neither the sequencer nor the master has anything to do. -/
theorem step_idle (hf : s.fault = none) (ho : s.seq.op = none) (hb : s.m.busy = false) (hs : s.sched = a :: l)
    (ha : a = .sequencer ∨ a = .master) : step s = .next (s.turned a l) := by
  rw [step_turned hf hs (Or.inl hb)]
  rcases ha with rfl | rfl
  · exact sequencerMove_idle (s := s.turned .sequencer l) ho
  · exact masterMove_idle (s := s.turned .master l) hb

end

/-! ### The parts of a command's run -/

theorem runsTo_idle (idle : List Agent) {s : State} {l : List Agent} (hidle : ∀ a ∈ idle, a = .sequencer ∨ a = .master)
    (hf : s.fault = none) (ho : s.seq.op = none) (hb : s.m.busy = false) (hs : s.sched = idle ++ l) :
    ∃ w n q, s.RunsTo idle.length (s.booked l w n q) := by
  induction idle generalizing s with
  | nil =>
    obtain rfl : s.sched = l := hs
    exact ⟨s.waited, s.draws, s.past, .refl s⟩
  | cons a idle ih =>
    have ha := hidle a List.mem_cons_self
    obtain ⟨w, n, q, h⟩ := ih (s := s.turned a (idle ++ l)) (fun b hb => hidle b (List.mem_cons_of_mem a hb)) hf ho hb
      rfl
    exact ⟨w, n, q, .of_step (step_idle hf ho hb hs ha) h⟩

/-- The command `op` is at the beginning of its phase `p`, with the master enabled and idle. -/
structure State.Begins (s : State) (op : HostCmd) (p : Phase) : Prop where
  running : s.running op
  mayIssue : s.mayIssue p
  idle : s.m.busy = false
  fault : s.fault = none

/-- The host's turn, with the CMD word of `op` before it: acceptance. -/
theorem runsTo_accepted {s : State} {op : HostCmd} {w : Word} {rest : List HostAction} {l : List Agent} (hr : s.ready)
    (hhost : s.host = .write 0x00 4 w :: rest) (hs : s.sched = .host :: l) (hrsvd : cmdRsvd w = 0#28)
    (hop : op.code = cmdOp w) (hcount : ¬((op = .burstRead ∨ op = .burstWrite) ∧ bufLen < s.regs.count.toNat)) :
    ∃ n q u, u = (({ s with host := rest } : State).accepted op).booked l 0 n q ∧ s.RunsTo 1 u ∧
      u.Begins op (firstPhase op s.regs.count) := by
  obtain ⟨hf, hb, hinit, hen, hmb, _⟩ := hr
  let u : State := { s.turned .host l with host := rest }
  have hstep : step s = .next (u.accepted op) := by
    rw [step_turned hf hs (Or.inl hmb), agentMove, hostMove_write (s := s.turned .host l) hhost]
    exact (memWrite_cmd_ok (s := u) rfl hb (decodeCmd_of_code hrsvd hop)).trans
      (exec_accepts (s := u) hb hcount fun _ => hinit)
  exact ⟨_, _, _, rfl, .of_step hstep (.refl _), ⟨rfl, rfl⟩, ⟨rfl, rfl, hen⟩, hmb, hf⟩

theorem phaseMaster_turned (op : HostCmd) (s : State) (a : Agent) (l : List Agent) :
    phaseMaster op (s.turned a l) = phaseMaster op s := by
  cases op <;> rfl

theorem markIssued_of_not_issued {s : State} (h : s.seq.issued = false) : markIssued false s = s := by
  rw [markIssued, ← h]
  rfl

/-- One phase in three turns: it is judged in the state in which the master has completed the phase's command. -/
theorem runsTo_phase {s : State} {op : HostCmd} {p : Phase} {c : BitVec 4} {l : List Agent} (h : s.Begins op p)
    (hp : phaseOf op p = true) (hc : phaseCode op s.seq = some c) (hheld : mcmdNeedsHeld c = true → s.m.held = true)
    (hs : s.sched = .sequencer :: .master :: .sequencer :: l) :
    ∃ n₀ h₀ n q, s.RunsTo 3 (phaseJudge op p
      ((s.completion (s.env.answer n₀ h₀ ((phaseMaster op s).working c) c) c ((phaseMaster op s).working c)).booked
        l 0 n q)) := by
  obtain ⟨hrun, hissue, hidle, hf⟩ := h
  let u₁ := (s.turned .sequencer (.master :: .sequencer :: l)).phaseIssued (phaseMaster op s) c
  have h₁ : step s = .next u₁ := by
    rw [step_sequencer hf hs hidle hrun]
    refine (exec_issues (s := s.turned .sequencer _) hrun hissue hp hc hheld).trans ?_
    rw [phaseMaster_turned]
  obtain ⟨n₀, h₀, h₂⟩ := step_master (s := u₁) (l := .sequencer :: l) hf rfl rfl (mcmdLegal_of_phaseCode hc)
  let u₂ := (u₁.turned .master (.sequencer :: l)).completion (s.env.answer n₀ h₀ u₁.m c) c u₁.m
  have h₃ : step u₂ = .next (phaseJudge op p (markIssued false (u₂.turned .sequencer l))) :=
    (step_sequencer (s := u₂) hf rfl rfl hrun).trans
      (exec_judges (s := u₂.turned .sequencer l) hrun ⟨hissue.1, rfl, rfl⟩ hp hc)
  refine ⟨n₀, h₀, (u₂.turned .sequencer l).draws, (u₂.turned .sequencer l).past,
    .of_step h₁ (.of_step h₂ (.of_step h₃ ?_))⟩
  conv_rhs => rw [← markIssued_of_not_issued hissue.2.1]
  exact .refl _

theorem doneRegs_turned (op : HostCmd) (s : State) (a : Agent) (l : List Agent) :
    doneRegs op (s.turned a l) = doneRegs op s := by
  cases op <;> rfl

/-- The DONE step, and idle turns after it. -/
theorem runsTo_returned {s : State} {op : HostCmd} (idle : List Agent) {l : List Agent} (h : s.Begins op .done)
    (hidle : ∀ a ∈ idle, a = .sequencer ∨ a = .master) (hs : s.sched = .sequencer :: (idle ++ l)) :
    ∃ w n q, s.RunsTo (idle.length + 1) ((s.returned (doneRegs op s)).booked l w n q) := by
  obtain ⟨hrun, hissue, hmb, hf⟩ := h
  let u := s.turned .sequencer (idle ++ l)
  obtain ⟨n₁, hbody⟩ := commandBody_done (op := op) (s := u) hissue.1
  have hstep : step s = .next (({ u with draws := n₁ } : State).returned (doneRegs op s)) := by
    rw [step_sequencer hf hs hmb hrun, exec_of_running (s := u) hrun.1 hrun.2, hbody, doneRegs_turned]
  obtain ⟨w, n, q, hrest⟩ := runsTo_idle idle (s := ({ u with draws := n₁ } : State).returned (doneRegs op s)) hidle hf
    rfl hmb rfl
  exact ⟨w, n, q, .of_step hstep hrest⟩

end Sys2Proof.Machine
end

section
/-!
PROOFS. Whole WRITE_REG and READ_REG (41_engine_ops R146 to R153) for every answer of the bus.
-/

namespace Sys2Proof.Machine

/-! ### One byte on the bus -/

theorem addrEvent_of_sa {m : Master} {sa : BusAddr} {rw : Bool} (h : m.sa = addrByte sa rw) (k : Ack) :
    addrEvent m k = .addr sa rw k := by
  rw [addrEvent, h, addrByte_address, addrByte_direction]

theorem addressed_dir {m : Master} {sa : BusAddr} {rw : Bool} (h : m.sa = addrByte sa rw) : m.addressed.dir = rw := by
  rw [Master.addressed, h, addrByte_direction]

section

variable {m : Master} {a : BusAnswer} {k : Ack}

theorem byteEvent_sent (h : m.dir = false) : byteEvent m a k = .tx m.dr a.txAck := by
  rw [byteEvent, h, if_neg Bool.false_ne_true]

theorem byteEvent_received (h : m.dir = true) : byteEvent m a k = .rx a.rxByte k := by
  rw [byteEvent, if_pos h]

theorem afterByte_received (h : m.dir = true) : m.afterByte a = { m with dr := a.rxByte } := by
  rw [Master.afterByte, if_pos h]

theorem afterByte_nacked (h : m.dir = false) (hk : a.txAck = .nack) :
    m.afterByte a = { m with datack := true, error := true } := by
  rw [Master.afterByte, h, if_neg Bool.false_ne_true, if_pos hk]

theorem afterByte_acked (h : m.dir = false) (hk : a.txAck = .ack) : m.afterByte a = m := by
  rw [Master.afterByte, h, if_neg Bool.false_ne_true, hk, if_neg nofun]

end

/-- The error code of four error flags (41_engine_ops R152, 10_state R37). -/
def flagCode (adrack datack arblst error : Bool) : Byte :=
  (BitVec.ofBool arblst ++ BitVec.ofBool datack ++ BitVec.ofBool adrack ++ BitVec.ofBool error ++ 0#1).setWidth 8

/-- ERR_MASK leaves the error flags of `m.STAT` and nothing else of it. -/
theorem Master.errCode_eq (m : Master) : m.errCode = flagCode m.adrack m.datack m.arblst m.error := by
  unfold Master.errCode Master.stat
  generalize m.busBusyBit = bsy, m.idleBit = idle, m.arblst = arb, m.datack = dat, m.adrack = adr, m.error = err,
    m.busy = busy
  revert bsy idle arb dat adr err busy
  decide

/-! ### What a phase's command leaves, for every answer of the bus -/

/-- The wire events of START_ADDR_W after its S or Sr. -/
def addressEvents (a : BusAnswer) (sa : BusAddr) (reg : Byte) : List WireEvent :=
  if a.lostBeforeAddr then [.lost]
  else if a.addrAck = .nack then [.addr sa false .nack]
  else if a.lostBeforeData then [.addr sa false .ack, .lost]
  else [.addr sa false .ack, .tx reg a.txAck]

/-- The error code that START_ADDR_W leaves (41_engine_ops R153). -/
def addressError (a : BusAnswer) : Byte :=
  if a.lostBeforeAddr then 0x12
  else if a.addrAck = .nack then 0x06
  else if a.lostBeforeData then 0x12
  else if a.txAck = .nack then 0x0A
  else 0x00

/-- Whether START_ADDR_W leaves the bus held: unless arbitration was lost (40_bus_master R113). -/
def addressHeld (a : BusAnswer) : Bool :=
  if a.lostBeforeAddr then false else if a.addrAck = .nack then true else !a.lostBeforeData

/-- The master `m'` has done with its command, with this error code, and holds the bus or not. -/
structure Master.Leaves (m : Master) (code : Byte) (held : Bool) (m' : Master) : Prop where
  en : m'.en = m.en
  held : m'.held = held
  error : m'.error = (code != 0)
  code : m'.errCode = code

theorem Master.Leaves.of_flags {m m' : Master} {code : Byte} {held : Bool} (adr dat arb err : Bool)
    (hen : m'.en = m.en) (hheld : m'.held = held)
    (hflags : m'.adrack = adr ∧ m'.datack = dat ∧ m'.arblst = arb ∧ m'.error = err)
    (hcode : flagCode adr dat arb err = code) (herror : err = (code != 0)) : m.Leaves code held m' := by
  obtain ⟨rfl, rfl, rfl, rfl⟩ := hflags
  exact ⟨hen, hheld, herror, (Master.errCode_eq m').trans hcode⟩

/-- START+RUN with an address for write (40_bus_master R107): one case for each way it can end. -/
theorem address_completes (s : State) (a : BusAnswer) {m : Master} {sa : BusAddr} (hsa : m.sa = addrByte sa false) :
    ∃ m', s.completion a 0x3 (m.working 0x3) = s.completed a m' (startEvent m :: addressEvents a sa m.dr) ∧
      m.Leaves (addressError a) (addressHeld a) m' ∧ (m'.held = true → m'.dir = false) := by
  have hdir : (m.working 0x3).addressed.dir = false := addressed_dir (m := m.working 0x3) hsa
  have haddr (k : Ack) : addrEvent (m.working 0x3) k = .addr sa false k := addrEvent_of_sa (m := m.working 0x3) hsa k
  obtain ⟨hlost, hnack, hdataLost, hbyte⟩ :=
    starting_cases (s := s) (a := a) (c := 0x3) (m := m.working 0x3) rfl rfl rfl
  simp only [haddr] at hnack hdataLost hbyte
  unfold addressEvents addressError addressHeld
  cases hl : a.lostBeforeAddr
  case true =>
    exact ⟨_, Host.Outcome.next.inj (hlost hl),
      .of_flags false false true true rfl rfl ⟨rfl, rfl, rfl, rfl⟩ rfl rfl, nofun⟩
  cases hk : a.addrAck
  case nack =>
    exact ⟨_, Host.Outcome.next.inj (hnack hl hk),
      .of_flags true false false true rfl rfl ⟨rfl, rfl, rfl, rfl⟩ rfl rfl, fun _ => hdir⟩
  cases hd : a.lostBeforeData
  case true =>
    exact ⟨_, Host.Outcome.next.inj (hdataLost hl hk hd),
      .of_flags false false true true rfl rfl ⟨rfl, rfl, rfl, rfl⟩ rfl rfl, nofun⟩
  have hcompletion := Host.Outcome.next.inj (hbyte hl hk hd)
  rw [byteEvent_sent hdir] at hcompletion
  cases ht : a.txAck
  case ack =>
    rw [afterByte_acked hdir ht, ht] at hcompletion
    exact ⟨_, hcompletion, .of_flags false false false false rfl rfl ⟨rfl, rfl, rfl, rfl⟩ rfl rfl, fun _ => hdir⟩
  case nack =>
    rw [afterByte_nacked hdir ht, ht] at hcompletion
    exact ⟨_, hcompletion, .of_flags false true false true rfl rfl ⟨rfl, rfl, rfl, rfl⟩ rfl rfl, fun _ => hdir⟩

/-- The wire events of the byte that WRITE_REG sends last. -/
def sendEvents (a : BusAnswer) (b : Byte) : List WireEvent := if a.lostBeforeData then [.lost] else [.tx b a.txAck, .p]

/-- The error code that it leaves (41_engine_ops R153). -/
def sendError (a : BusAnswer) : Byte := if a.lostBeforeData then 0x12 else if a.txAck = .nack then 0x0A else 0x00

/-- RUN+STOP with a byte to send (40_bus_master R109). -/
theorem send_completes (s : State) (a : BusAnswer) {m : Master} (hdir : m.dir = false) :
    ∃ m', s.completion a 0x5 (m.working 0x5) = s.completed a m' (sendEvents a m.dr) ∧
      m.Leaves (sendError a) false m' := by
  have hdir' : (m.working 0x5).dir = false := hdir
  obtain ⟨hlost, hbyte⟩ := continuing_cases (s := s) (a := a) (c := 0x5) (m := m.working 0x5) rfl rfl rfl
  unfold sendEvents sendError
  cases hd : a.lostBeforeData
  case true =>
    exact ⟨_, Host.Outcome.next.inj (hlost hd),
      .of_flags false false true true rfl rfl ⟨rfl, rfl, rfl, rfl⟩ rfl rfl⟩
  have hcompletion := Host.Outcome.next.inj (hbyte hd)
  rw [byteEvent_sent hdir'] at hcompletion
  cases ht : a.txAck
  case ack =>
    rw [afterByte_acked hdir' ht, ht] at hcompletion
    exact ⟨_, hcompletion, .of_flags false false false false rfl rfl ⟨rfl, rfl, rfl, rfl⟩ rfl rfl⟩
  case nack =>
    rw [afterByte_nacked hdir' ht, ht] at hcompletion
    exact ⟨_, hcompletion, .of_flags false true false true rfl rfl ⟨rfl, rfl, rfl, rfl⟩ rfl rfl⟩

/-- The wire events of the single-shot read after its S or Sr. -/
def readEvents (a : BusAnswer) (sa : BusAddr) : List WireEvent :=
  if a.lostBeforeAddr then [.lost]
  else if a.addrAck = .nack then [.addr sa true .nack, .p]
  else if a.lostBeforeData then [.addr sa true .ack, .lost]
  else [.addr sa true .ack, .rx a.rxByte .nack, .p]

/-- START+RUN+STOP with an address for read (40_bus_master R110). -/
theorem read_completes (s : State) (a : BusAnswer) {m : Master} {sa : BusAddr} (hsa : m.sa = addrByte sa true) :
    ∃ m', s.completion a 0x7 (m.working 0x7) = s.completed a m' (startEvent m :: readEvents a sa) ∧
      m'.en = m.en ∧ m'.held = false ∧
      (a.lostBeforeAddr = false → a.addrAck = .ack → a.lostBeforeData = false →
        m'.error = false ∧ m'.dr = a.rxByte) := by
  have hdir : (m.working 0x7).addressed.dir = true := addressed_dir (m := m.working 0x7) hsa
  have haddr (k : Ack) : addrEvent (m.working 0x7) k = .addr sa true k := addrEvent_of_sa (m := m.working 0x7) hsa k
  obtain ⟨hlost, hnack, hdataLost, hbyte⟩ :=
    starting_cases (s := s) (a := a) (c := 0x7) (m := m.working 0x7) rfl rfl rfl
  simp only [haddr] at hnack hdataLost hbyte
  unfold readEvents
  cases hl : a.lostBeforeAddr
  case true => exact ⟨_, Host.Outcome.next.inj (hlost hl), rfl, rfl, nofun⟩
  cases hk : a.addrAck
  case nack => exact ⟨_, Host.Outcome.next.inj (hnack hl hk), rfl, rfl, nofun⟩
  cases hd : a.lostBeforeData
  case true => exact ⟨_, Host.Outcome.next.inj (hdataLost hl hk hd), rfl, rfl, nofun⟩
  have hcompletion := Host.Outcome.next.inj (hbyte hl hk hd)
  rw [byteEvent_received hdir, afterByte_received hdir] at hcompletion
  exact ⟨_, hcompletion, rfl, rfl, fun _ _ _ => ⟨rfl, rfl⟩⟩

/-- STOP on a held bus (40_bus_master R108). -/
theorem stop_completes (s : State) (a : BusAnswer) {m : Master} (hheld : m.held = true) :
    s.completion a 0x4 (m.working 0x4) = s.completed a { m.working 0x4 with held := false } [.p] :=
  Host.Outcome.next.inj ((stop_cases (s := s) (m := m.working 0x4) rfl).1 hheld)

/-! ### The end of a command -/

/-- A command has returned to a ready machine, with the results in `r` and BUSY cleared. -/
structure State.Finished (t : State) (r : Regs) (trace : List WireEvent) (env : BusEnv) (host : List HostAction)
    (l : List Agent) : Prop where
  ready : t.ready
  op : t.seq.op = none
  regs : t.regs = { r with status := { r.status with busy := false } }
  trace : t.trace = trace
  env : t.env = env
  host : t.host = host
  sched : t.sched = l

/-- The DONE step returns the results, whatever idle turns come after it (41_engine_ops R143, R165). -/
theorem done_finishes {s : State} {op : HostCmd} {r : Regs} (idle : List Agent) {l : List Agent}
    (h : s.Begins op .done) (hr : doneRegs op s = r) (hinit : s.regs.status.initDone = true) (hheld : s.m.held = false)
    (hidle : ∀ a ∈ idle, a = .sequencer ∨ a = .master) (hs : s.sched = .sequencer :: (idle ++ l)) :
    ∃ t, s.RunsTo (idle.length + 1) t ∧ t.Finished r s.trace s.env s.host l := by
  subst hr
  obtain ⟨w, n, q, hruns⟩ := runsTo_returned idle h hidle hs
  have hinit' : (doneRegs op s).status.initDone = true := by
    by_contra hne
    exact hne ((doneRegs_doneBy op s).initDone fun heq => hne (heq.trans hinit)).2
  exact ⟨_, hruns, ⟨h.fault, rfl, hinit', h.mayIssue.2.2, h.idle, hheld⟩, rfl, rfl, rfl, rfl, rfl, rfl⟩

theorem doneRegs_result_of_mem {op : HostCmd} (s : State) (hop : op ∈ [HostCmd.writeReg, .burstRead, .burstWrite]) :
    doneRegs op s = { s.regs with result := s.seq.err } := by
  cases op <;> simp at hop <;> rfl

theorem phaseJudge_stopAbort (op : HostCmd) : phaseJudge op .stopAbort = goto .done := by
  cases op <;> rfl

/-- ABORT to the end of its command in four turns: the STOP on a held bus and the return, or the return alone
(41_engine_ops R152). -/
theorem abort_finishes {u : State} {op : HostCmd} {l : List Agent}
    (hop : op ∈ [HostCmd.writeReg, .burstRead, .burstWrite]) (hrun : u.running op)
    (hf : u.fault = none) (hen : u.m.en = true) (hb : u.m.busy = false)
    (hinit : u.regs.status.initDone = true) (hs : u.sched = .sequencer :: .master :: .sequencer :: .sequencer :: l) :
    ∃ t, (abort u).RunsTo 4 t ∧
      t.Finished { u.regs with result := u.m.errCode } (u.trace ++ if u.m.held then [.p] else [])
        (if u.m.held then u.env.after [.p] else u.env) u.host l := by
  have hphase : (abort u).seq.phase = if u.m.held then .stopAbort else .done := rfl
  cases hheld : u.m.held <;> simp only [hheld, Bool.false_eq_true, if_false, if_true] at hphase ⊢
  case false =>
    rw [List.append_nil]
    exact done_finishes (s := abort u) (op := op) [.master, .sequencer, .sequencer]
      ⟨hrun, ⟨hphase, rfl, hen⟩, hb, hf⟩ (doneRegs_result_of_mem _ hop) hinit hheld (by decide) hs
  case true =>
    obtain ⟨n₀, h₀, n, q, hstop⟩ := runsTo_phase (s := abort u) (op := op) (l := .sequencer :: l)
      ⟨hrun, ⟨hphase, rfl, hen⟩, hb, hf⟩ (phaseOf_stopAbort op hop) (phaseCode_stopAbort hphase) nofun hs
    rw [phaseMaster_stopAbort hphase, stop_completes _ _ (m := (abort u).m) hheld, phaseJudge_stopAbort] at hstop
    exact hstop.trans_exists
      (done_finishes (op := op) [] ⟨hrun, ⟨rfl, rfl, hen⟩, rfl, hf⟩ (doneRegs_result_of_mem _ hop) hinit rfl
        (by decide) rfl)

/-! ### The beginning of a command -/

/-- The master as START_ADDR_W sets it from the latched arguments. -/
def addressMaster (s : State) : Master := { s.m with sa := addrByte s.regs.sa false, dr := s.regs.ra }

/-- The state in which START_ADDR_W of `op` is judged, once the host has written CMD: the answers of the bus and the
master's end give all of it but the bookkeeping. -/
def addressedState (s : State) (op : HostCmd) (rest : List HostAction) (a : BusAnswer) (m : Master) (l : List Agent)
    (n : Nat) (q : List PastStep) : State :=
  ((({ s with host := rest } : State).accepted op).completed a m
    (.s :: addressEvents a s.regs.sa s.regs.ra)).booked l 0 n q

/-- The first four turns of READ_REG, WRITE_REG or BURST_READ: acceptance and START_ADDR_W. -/
theorem runsTo_addressed {s : State} {op : HostCmd} {rest : List HostAction} {l : List Agent} (hr : s.ready)
    (hop : op ∈ [HostCmd.readReg, .writeReg, .burstRead]) (hfirst : firstPhase op s.regs.count = .startAddrW)
    (hcount : ¬((op = .burstRead ∨ op = .burstWrite) ∧ bufLen < s.regs.count.toNat))
    (hhost : s.host = .write 0x00 4 (op.code.setWidth 32) :: rest)
    (hs : s.sched = .host :: .sequencer :: .master :: .sequencer :: l) :
    ∃ n₀ h₀ a m n q, s.env.answer n₀ h₀ ((addressMaster s).working 0x3) 0x3 = a ∧
      s.RunsTo 4 (phaseJudge op .startAddrW (addressedState s op rest a m l n q)) ∧
      (addressMaster s).Leaves (addressError a) (addressHeld a) m ∧ (m.held = true → m.dir = false) := by
  have hword : cmdRsvd (op.code.setWidth 32) = 0#28 ∧ op.code = cmdOp (op.code.setWidth 32) := by cases op <;> decide
  obtain ⟨_, _, u, rfl, haccept, hbegins⟩ := runsTo_accepted hr hhost hs hword.1 hword.2 hcount
  rw [hfirst] at hbegins
  have hphase : phaseOf op .startAddrW = true := by cases op <;> simp at hop <;> rfl
  obtain ⟨n₀, h₀, n, q, hruns⟩ := runsTo_phase hbegins hphase (phaseCode_startAddrW hbegins.mayIssue.1) nofun rfl
  rw [phaseMaster_startAddrW hbegins.mayIssue.1] at hruns
  have htarget (u : State) : addressTarget op u = (u.seq.sa, u.seq.ra) := by cases op <;> simp at hop <;> rfl
  rw [htarget] at hruns
  obtain ⟨m, hcompletion, hleaves, hdir⟩ := address_completes (({ s with host := rest } : State).accepted op)
    (s.env.answer n₀ h₀ ((addressMaster s).working 0x3) 0x3) (m := addressMaster s) (sa := s.regs.sa) rfl
  have hstart : startEvent (addressMaster s) = .s := by
    obtain ⟨_, _, _, _, _, hheld⟩ := hr
    have hheld' : (addressMaster s).held = false := hheld
    rw [startEvent, hheld', if_neg Bool.false_ne_true]
  rw [hstart] at hcompletion
  have hjudged : s.RunsTo 4 (phaseJudge op .startAddrW (((({ s with host := rest } : State).accepted op).completion
      (s.env.answer n₀ h₀ ((addressMaster s).working 0x3) 0x3) 0x3 ((addressMaster s).working 0x3)).booked l 0 n q)) :=
    haccept.trans hruns
  rw [hcompletion] at hjudged
  exact ⟨n₀, h₀, _, m, n, q, rfl, hjudged, hleaves, hdir⟩

/-! ### WRITE_REG -/

theorem addressError_eq_zero_iff {a : BusAnswer} : addressError a = 0 ↔
    a.lostBeforeAddr = false ∧ a.addrAck = .ack ∧ a.lostBeforeData = false ∧ a.txAck = .ack := by
  unfold addressError
  cases a.lostBeforeAddr <;> cases a.addrAck <;> cases a.lostBeforeData <;> cases a.txAck <;> decide

theorem addressEvents_of_no_error {a : BusAnswer} (h : addressError a = 0) (sa : BusAddr) (reg : Byte) :
    addressEvents a sa reg = [.addr sa false .ack, .tx reg .ack] := by
  obtain ⟨hl, hk, hd, ht⟩ := addressError_eq_zero_iff.mp h
  simp [addressEvents, hl, hk, hd, ht]

theorem addressHeld_of_no_error {a : BusAnswer} (h : addressError a = 0) : addressHeld a = true := by
  obtain ⟨hl, hk, hd, _⟩ := addressError_eq_zero_iff.mp h
  simp [addressHeld, hl, hk, hd]

/-- With the bus free there is nothing between an error and the DONE step. -/
theorem unlessError_done {u : State} (hheld : u.m.held = false) :
    unlessError (goto .done) u =
      goto .done (u.setSeq { u.seq with err := if u.m.error then u.m.errCode else u.seq.err }) := by
  cases he : u.m.error
  · exact unlessError_of_no_error he
  · rw [unlessError_of_error he, abort, hheld]
    rfl

section

variable {s : State} {rest : List HostAction} {a : BusAnswer} {m : Master} {agents : List Agent} {n : Nat}
  {q : List PastStep} (hr : s.ready) (hm : (addressMaster s).Leaves (addressError a) (addressHeld a) m)

include hr hm

/-- WRITE_REG after an address phase with an error (41_engine_ops R152). -/
theorem writeReg_aborts (he : addressError a ≠ 0) :
    ∃ t env, (phaseJudge .writeReg .startAddrW (addressedState s .writeReg rest a m
        (.sequencer :: .master :: .sequencer :: .sequencer :: agents) n q)).RunsTo 4 t ∧
      t.Finished { (s.accepted .writeReg).regs with result := addressError a }
        (s.trace ++ .s :: addressEvents a s.regs.sa s.regs.ra ++ if addressHeld a then [.p] else []) env rest
        agents := by
  obtain ⟨hf, _, hinit, hen, _⟩ := hr
  let u := addressedState s .writeReg rest a m (.sequencer :: .master :: .sequencer :: .sequencer :: agents) n q
  have hjudge : phaseJudge .writeReg .startAddrW u = abort u :=
    unlessError_of_error (s := u) (hm.error.trans (by simpa using he))
  have hcode : u.m.errCode = addressError a := (Master.errCode_eq _).trans ((Master.errCode_eq m).symm.trans hm.code)
  have hheld : u.m.held = addressHeld a := hm.held
  obtain ⟨t, hruns, hfin⟩ := abort_finishes (u := u) (op := .writeReg) (by decide) ⟨rfl, rfl⟩ hf (hm.en.trans hen) rfl
    hinit rfl
  rw [hcode, hheld] at hfin
  rw [hjudge]
  exact ⟨t, _, hruns, hfin⟩

/-- WRITE_REG after an address phase without an error: the data byte, and the return with its error code. -/
theorem writeReg_sends (he : addressError a = 0) (hdir : m.held = true → m.dir = false) :
    ∃ n₁ h₁ b t, (s.env.after (.s :: addressEvents a s.regs.sa s.regs.ra)).answer n₁ h₁
        (({ m with busy := false, otherMaster := a.otherMaster, dr := s.regs.wdata } : Master).working 0x5) 0x5 = b ∧
      (phaseJudge .writeReg .startAddrW (addressedState s .writeReg rest a m
        (.sequencer :: .master :: .sequencer :: .sequencer :: agents) n q)).RunsTo 4 t ∧
      t.Finished { (s.accepted .writeReg).regs with result := sendError b }
        (s.trace ++ .s :: addressEvents a s.regs.sa s.regs.ra ++ sendEvents b s.regs.wdata)
        ((s.env.after (.s :: addressEvents a s.regs.sa s.regs.ra)).after (sendEvents b s.regs.wdata)) rest agents := by
  obtain ⟨hf, _, hinit, hen, _⟩ := hr
  let u := addressedState s .writeReg rest a m (.sequencer :: .master :: .sequencer :: .sequencer :: agents) n q
  have hheld : m.held = true := hm.held.trans (addressHeld_of_no_error he)
  have hjudge : phaseJudge .writeReg .startAddrW u = goto .sendByte u :=
    unlessError_of_no_error (s := u) (hm.error.trans (by simp [he]))
  obtain ⟨n₁, h₁, n₂, q₂, hruns⟩ := runsTo_phase (s := goto .sendByte u) (op := .writeReg) (p := .sendByte)
    ⟨⟨rfl, rfl⟩, ⟨rfl, rfl, hm.en.trans hen⟩, rfl, hf⟩ rfl (phaseCode_sendByte_writeReg rfl) (fun _ => hheld) rfl
  rw [phaseMaster_sendByte rfl, if_pos rfl] at hruns
  let b := (s.env.after (.s :: addressEvents a s.regs.sa s.regs.ra)).answer n₁ h₁
    (({ m with busy := false, otherMaster := a.otherMaster, dr := s.regs.wdata } : Master).working 0x5) 0x5
  obtain ⟨m', hcompletion, hleaves⟩ := send_completes (goto .sendByte u) b (m := { u.m with dr := s.regs.wdata })
    (hdir hheld)
  let v := ((goto .sendByte u).completed b m' (sendEvents b s.regs.wdata)).booked (.sequencer :: agents) 0 n₂ q₂
  have hjudged : (goto .sendByte u).RunsTo 3 (unlessError (goto .done) v) := by
    have hv : ((goto .sendByte u).completion b 0x5 (({ u.m with dr := s.regs.wdata } : Master).working 0x5)).booked
        (.sequencer :: agents) 0 n₂ q₂ = v := by rw [hcompletion]
    rw [← hv]
    exact hruns
  have hcode : v.m.errCode = sendError b :=
    (Master.errCode_eq _).trans ((Master.errCode_eq m').symm.trans hleaves.code)
  have herror : (if v.m.error then v.m.errCode else v.seq.err) = sendError b := by
    rw [hcode, show v.m.error = (sendError b != 0) from hleaves.error]
    by_cases h0 : sendError b = 0
    · rw [h0]; rfl
    · rw [if_pos (by simpa using h0)]
  rw [unlessError_done (u := v) hleaves.held, herror] at hjudged
  obtain ⟨t, hend, hfin⟩ := hjudged.trans_exists (done_finishes (op := .writeReg) [] ⟨⟨rfl, rfl⟩,
    ⟨rfl, rfl, hleaves.en.trans (hm.en.trans hen)⟩, rfl, hf⟩ rfl hinit hleaves.held (by decide) rfl)
  rw [hjudge]
  exact ⟨n₁, h₁, b, t, rfl, hend, hfin⟩

end

/-- Settles O56: START_ADDR_W, then ABORT at its first error, or else the data byte. -/
theorem writeRegRunsToCompletion : Obligations.WriteRegRunsToCompletion := by
  intro s a b script rest agents hr henv hhost hs
  obtain ⟨n₀, h₀, a', m, n, q, ha, hruns, hleaves, hdir⟩ := runsTo_addressed (op := .writeReg)
    (l := .sequencer :: .master :: .sequencer :: .sequencer :: agents) hr (by decide) rfl (by simp) hhost hs
  obtain rfl : a = a' := by rw [henv] at ha; exact ha
  by_cases he : addressError a = 0
  case neg =>
    obtain ⟨t, env, hend, hfin⟩ := writeReg_aborts hr hleaves he
    refine ⟨t, hruns.trans hend, hfin.ready, hfin.op, hfin.host, hfin.sched, ?_⟩
    rw [hfin.regs, hfin.trace]
    unfold addressError at he
    unfold addressError addressEvents addressHeld
    split_ifs at he ⊢ <;> simp_all
  case pos =>
    obtain ⟨n₁, h₁, b', t, hb, hend, hfin⟩ := writeReg_sends hr hleaves he hdir
    obtain rfl : b = b' := by rw [henv] at hb; exact hb
    refine ⟨t, hruns.trans hend, hfin.ready, hfin.op, hfin.host, hfin.sched, ?_⟩
    rw [hfin.regs, hfin.trace, addressEvents_of_no_error he]
    obtain ⟨hl, hk, hd, ht⟩ := addressError_eq_zero_iff.mp he
    simp only [hl, hk, hd, ht, sendError, sendEvents]
    cases b.lostBeforeData <;> simp

/-! ### READ_REG -/

/-- READ_REG after its address phase, whatever that one left: the read, and the return with the byte received. -/
theorem readReg_reads {s : State} {rest : List HostAction} {a : BusAnswer} {m : Master} {agents : List Agent} {n : Nat}
    {q : List PastStep} (hr : s.ready) (hm : (addressMaster s).Leaves (addressError a) (addressHeld a) m) :
    ∃ n₁ h₁ b r t, (s.env.after (.s :: addressEvents a s.regs.sa s.regs.ra)).answer n₁ h₁
        (({ m with busy := false, otherMaster := a.otherMaster, sa := addrByte s.regs.sa true } : Master).working 0x7)
        0x7 = b ∧
      (b.lostBeforeAddr = false → b.addrAck = .ack → b.lostBeforeData = false → r = b.rxByte) ∧
      (phaseJudge .readReg .startAddrW (addressedState s .readReg rest a m
        (.sequencer :: .master :: .sequencer :: .sequencer :: agents) n q)).RunsTo 4 t ∧
      t.Finished { (s.accepted .readReg).regs with rdata := r }
        (s.trace ++ .s :: addressEvents a s.regs.sa s.regs.ra ++
          (if addressHeld a then .sr else .s) :: readEvents b s.regs.sa)
        ((s.env.after (.s :: addressEvents a s.regs.sa s.regs.ra)).after
          ((if addressHeld a then .sr else .s) :: readEvents b s.regs.sa)) rest agents := by
  obtain ⟨hf, _, hinit, hen, _⟩ := hr
  let u := goto .startAddrR (addressedState s .readReg rest a m
    (.sequencer :: .master :: .sequencer :: .sequencer :: agents) n q)
  obtain ⟨n₁, h₁, n₂, q₂, hruns⟩ := runsTo_phase (s := u) (op := .readReg) (p := .startAddrR)
    ⟨⟨rfl, rfl⟩, ⟨rfl, rfl, hm.en.trans hen⟩, rfl, hf⟩ rfl (phaseCode_readTransaction nofun rfl) nofun rfl
  rw [phaseMaster_startAddrR rfl] at hruns
  let m₁ : Master := { m with busy := false, otherMaster := a.otherMaster, sa := addrByte s.regs.sa true }
  let b := (s.env.after (.s :: addressEvents a s.regs.sa s.regs.ra)).answer n₁ h₁ (m₁.working 0x7) 0x7
  obtain ⟨m', hcompletion, hen', hheld', hbyte⟩ := read_completes u b (m := m₁) (sa := s.regs.sa) rfl
  have hstart : startEvent m₁ = if addressHeld a then .sr else .s := by
    rw [startEvent, show m₁.held = addressHeld a from hm.held]
  rw [hstart] at hcompletion
  let v := (u.completed b m' ((if addressHeld a then .sr else .s) :: readEvents b s.regs.sa)).booked
    (.sequencer :: agents) 0 n₂ q₂
  have hjudged : u.RunsTo 3 (goto .done (v.setSeq { v.seq with rx := !v.m.error })) := by
    have hv : (u.completion b 0x7 (m₁.working 0x7)).booked (.sequencer :: agents) 0 n₂ q₂ = v := by rw [hcompletion]
    rw [← hv]
    exact hruns
  obtain ⟨t, hend, hfin⟩ := hjudged.trans_exists (done_finishes (op := .readReg) [] ⟨⟨rfl, rfl⟩,
    ⟨rfl, rfl, hen'.trans (hm.en.trans hen)⟩, rfl, hf⟩ rfl hinit hheld' (by decide) rfl)
  refine ⟨n₁, h₁, b, _, t, rfl, fun hl hk hd => ?_, hend, hfin⟩
  obtain ⟨he, hdr⟩ := hbyte hl hk hd
  have hrx : (goto .done (v.setSeq { v.seq with rx := !v.m.error })).seq.rx = true := congrArg not he
  rw [rdtxByte, if_pos hrx]
  exact hdr

/-- Settles O57: the two phases, and the return. -/
theorem readRegRunsToCompletion : Obligations.ReadRegRunsToCompletion := by
  intro s a b script rest agents hr henv hhost hs
  obtain ⟨n₀, h₀, a', m, n, q, ha, hruns, hleaves, _⟩ := runsTo_addressed (op := .readReg)
    (l := .sequencer :: .master :: .sequencer :: .sequencer :: agents) hr (by decide) rfl (by simp) hhost hs
  obtain rfl : a = a' := by rw [henv] at ha; exact ha
  obtain ⟨n₁, h₁, b', r, t, hb, hr', hend, hfin⟩ := readReg_reads hr hleaves
  obtain rfl : b = b' := by rw [henv] at hb; exact hb
  refine ⟨t, hruns.trans hend, hfin.ready, hfin.op, ?_, ?_, fun hl hk hd => ?_, ?_⟩
  · rw [hfin.regs]; rfl
  · rw [hfin.regs]; rfl
  · rw [hfin.regs]
    exact hr' hl hk hd
  · rw [hfin.trace]
    unfold addressEvents addressHeld readEvents
    split_ifs <;> simp_all

end Sys2Proof.Machine
end

section
/-!
PROOFS. Whole commands on the reference peripheral (40_bus_master R122): WRITE_REG and READ_REG of one register
(41_engine_ops R166), and BURST_READ (R155 to R157).
-/

namespace Sys2Proof.Machine

/-! ### The peripheral during a phase addressed to it -/

section

variable {p : RefPeripheral} {f : BusAnswer} {m : Master} {c : BitVec 4}

/-- It acknowledges its own address, and without `nack_at` the byte after it. -/
theorem RefPeripheral.answer_own_start {sa : BusAddr} {rw : Bool} (haddr : p.addr = sa)
    (hsa : m.sa = addrByte sa rw) (hn : p.nackAt = none) (hc : mcmdStartBit c = true) :
    addressError (p.answer f m c) = 0 := by
  refine addressError_eq_zero_iff.mpr ⟨rfl, RefPeripheral.answer_addrAck.mpr ?_, rfl, ?_⟩
  · rw [hsa, addrByte_address, haddr]
  · simp [RefPeripheral.answer, hc, hn]

theorem RefPeripheral.answer_own_send (hw : p.addressed = .write) (hn : p.nackAt = none)
    (hc : mcmdStartBit c = false) : sendError (p.answer f m c) = 0 := by
  have ht : (p.answer f m c).txAck = .ack := by simp [RefPeripheral.answer, hc, hw, hn]
  rw [sendError, ht]
  rfl

/-- The peripheral with its pointer set by an address phase. -/
def RefPeripheral.pointedTo (p : RefPeripheral) (reg : Byte) : RefPeripheral :=
  { p with addressed := .write, ptr := reg, wc := 1 }

theorem after_addressEvents {sa : BusAddr} (haddr : p.addr = sa) {a : BusAnswer} (ha : addressError a = 0)
    (reg : Byte) : (BusEnv.reference p).after (.s :: addressEvents a sa reg) = .reference (p.pointedTo reg) := by
  subst haddr
  rw [addressEvents_of_no_error ha]
  simp [BusEnv.after, RefPeripheral.onEvent, RefPeripheral.onAddr, RefPeripheral.onTx, RefPeripheral.pointedTo]

theorem sendError_eq_zero_iff {a : BusAnswer} : sendError a = 0 ↔ a.lostBeforeData = false ∧ a.txAck = .ack := by
  unfold sendError
  cases a.lostBeforeData <;> cases a.txAck <;> decide

theorem after_sendEvents {a : BusAnswer} (ha : sendError a = 0) (reg b : Byte) :
    (BusEnv.reference (p.pointedTo reg)).after (sendEvents a b) =
      .reference { p with mem := p.mem.write reg.toNat b, ptr := reg + 1, wc := 2, addressed := .no } := by
  obtain ⟨hd, ht⟩ := sendError_eq_zero_iff.mp ha
  simp only [sendEvents, hd, ht, Bool.false_eq_true, if_false]
  simp [BusEnv.after, RefPeripheral.onEvent, RefPeripheral.onTx, RefPeripheral.pointedTo, RefPeripheral.advance]

end

/-! ### One register -/

section

variable {s : State} {p : RefPeripheral} {rest : List HostAction} {agents : List Agent} (hr : s.ready)
  (henv : s.env = .reference p) (haddr : p.addr = s.regs.sa) (hn : p.nackAt = none)

include hr henv haddr hn

theorem writeReg_on_reference (hhost : s.host = .write 0x00 4 0x00000003 :: rest)
    (hs : s.sched = [Agent.host] ++ phaseTurns 2 ++ [.sequencer] ++ agents) :
    ∃ t trace, s.RunsTo 8 t ∧ t.Finished { (s.accepted .writeReg).regs with result := 0 } trace
      (.reference { p with
        mem := p.mem.write s.regs.ra.toNat s.regs.wdata, ptr := s.regs.ra + 1, wc := 2, addressed := .no })
      rest agents := by
  obtain ⟨n₀, h₀, a, m, n, q, ha, hruns, hleaves, hdir⟩ := runsTo_addressed (op := .writeReg)
    (l := .sequencer :: .master :: .sequencer :: .sequencer :: agents) hr (by decide) rfl (by simp) hhost hs
  have herr : addressError a = 0 := by
    rw [← ha, henv]
    exact p.answer_own_start haddr rfl hn rfl
  obtain ⟨n₁, h₁, b, t, hb, hend, hfin⟩ := writeReg_sends hr hleaves herr hdir
  rw [henv, after_addressEvents haddr herr] at hb hfin
  have herr' : sendError b = 0 := by
    rw [← hb]
    exact RefPeripheral.answer_own_send rfl hn rfl
  rw [herr', after_sendEvents herr'] at hfin
  exact ⟨t, _, hruns.trans hend, hfin⟩

theorem readReg_on_reference (hhost : s.host = .write 0x00 4 0x00000002 :: rest)
    (hs : s.sched = [Agent.host] ++ phaseTurns 2 ++ [.sequencer] ++ agents) :
    ∃ t trace env, s.RunsTo 8 t ∧ t.Finished { (s.accepted .readReg).regs with rdata := p.mem.read s.regs.ra.toNat }
      trace env rest agents := by
  obtain ⟨n₀, h₀, a, m, n, q, ha, hruns, hleaves, _⟩ := runsTo_addressed (op := .readReg)
    (l := .sequencer :: .master :: .sequencer :: .sequencer :: agents) hr (by decide) rfl (by simp) hhost hs
  have herr : addressError a = 0 := by
    rw [← ha, henv]
    exact p.answer_own_start haddr rfl hn rfl
  obtain ⟨n₁, h₁, b, r, t, hb, hr', hend, hfin⟩ := readReg_reads hr hleaves
  rw [henv, after_addressEvents haddr herr] at hb
  have herr' : addressError b = 0 := by
    rw [← hb]
    exact RefPeripheral.answer_own_start (p := p.pointedTo _) haddr rfl hn rfl
  obtain ⟨hl, hk, hd, _⟩ := addressError_eq_zero_iff.mp herr'
  have hbyte : r = p.mem.read s.regs.ra.toNat := by
    rw [hr' hl hk hd, ← hb]
    exact RefPeripheral.answer_rxByte (Or.inl rfl)
  rw [hbyte] at hfin
  exact ⟨t, _, _, hruns.trans hend, hfin⟩

end

/-- Settles O58: the write leaves the byte in the register file, and the read finds it there. -/
theorem loopbackReturnsTheByte : Obligations.LoopbackReturnsTheByte := by
  intro s p rest agents hr henv haddr hn _ hwf hhost hs
  obtain ⟨t, _, hwrite, hfin⟩ := writeReg_on_reference hr henv haddr hn hhost hs
  have hregs := hfin.regs
  obtain ⟨u, _, _, hread, hfin'⟩ := readReg_on_reference hfin.ready hfin.env (by rw [hregs]; exact haddr) hn hfin.host
    hfin.sched
  refine ⟨u, hwrite.trans hread, ?_, ?_, hfin'.ready, hfin'.host⟩
  · rw [hfin'.regs, hregs]
    exact Memory.read_write_same p.mem s.regs.ra.toNat s.regs.wdata hwf
  · rw [hfin'.regs]
    exact congrArg Regs.result hregs

end Sys2Proof.Machine
end

section
/-!
PROOFS. A whole BURST_READ on the reference peripheral (41_engine_ops R155 to R157, 40_bus_master R122), byte by byte.
-/

namespace Sys2Proof.Machine

/-! ### A received byte on the bus -/

section

variable {s : State} {a : BusAnswer} {m : Master} {c : BitVec 4}

/-- Without an error, the first byte of a read: S or Sr, the address, and the byte (40_bus_master R112). -/
theorem receive_first_completes {sa : BusAddr} (hs : mcmdStartBit c = true) (hr : mcmdRunBit c = true)
    (hsa : m.sa = addrByte sa true) (ha : addressError a = 0) :
    s.completion a c (m.working c) =
      s.completed a (({ (m.working c).addressed with dr := a.rxByte } : Master).ended c)
        (startEvent m :: .addr sa true .ack :: .rx a.rxByte (ackOf c) :: stopEvents c) := by
  obtain ⟨hl, hk, hd, _⟩ := addressError_eq_zero_iff.mp ha
  have hdir : (m.working c).addressed.dir = true := addressed_dir (m := m.working c) hsa
  have hcompletion := Host.Outcome.next.inj
    ((starting_cases (s := s) (a := a) (c := c) (m := m.working c) rfl hs hr).2.2.2 hl hk hd)
  rw [addrEvent_of_sa (m := m.working c) hsa, byteEvent_received hdir, afterByte_received hdir] at hcompletion
  exact hcompletion

/-- A later byte (40_bus_master R111). -/
theorem receive_later_completes (hs : mcmdStartBit c = false) (hr : mcmdRunBit c = true) (hdir : m.dir = true)
    (hd : a.lostBeforeData = false) :
    s.completion a c (m.working c) =
      s.completed a (({ m.working c with dr := a.rxByte } : Master).ended c)
        (.rx a.rxByte (ackOf c) :: stopEvents c) := by
  have hdir' : (m.working c).dir = true := hdir
  have hcompletion := Host.Outcome.next.inj
    ((continuing_cases (s := s) (a := a) (c := c) (m := m.working c) rfl hs hr).2 hd)
  rwa [byteEvent_received hdir', afterByte_received hdir'] at hcompletion

end

/-! ### The flags of the receive codes (41_engine_ops R156) -/

theorem mcmdRunBit_rxcode (i n : Nat) : mcmdRunBit (rxcode i n) = true := by
  unfold rxcode
  split_ifs <;> rfl

theorem mcmdStartBit_rxcode (i n : Nat) : mcmdStartBit (rxcode i n) = decide (i = 0) := by
  rcases Nat.eq_zero_or_pos i with rfl | hi
  · rw [rxcode, if_pos rfl]
    split_ifs <;> rfl
  · rw [rxcode_later n hi, decide_eq_false (by omega)]
    split_ifs <;> rfl

theorem ackOf_rxcode {i n : Nat} (hi : i < n) : ackOf (rxcode i n) = if i + 1 = n then .nack else .ack := by
  rw [ackOf, mcmdAckBit_rxcode hi]
  by_cases h : i + 1 = n
  · rw [if_pos h, if_neg (by simp; omega)]
  · rw [if_neg h, if_pos (by simp; omega)]

theorem stopEvents_rxcode (i n : Nat) : stopEvents (rxcode i n) = if i + 1 = n then [.p] else [] := by
  simp only [stopEvents, mcmdStopBit_rxcode, decide_eq_true_iff]

/-! ### What the bytes are and how they go over the wire -/

/-- Byte `k` of a burst that reads from the register `ra` on. -/
def burstByte (p : RefPeripheral) (ra : Byte) (k : Nat) : Byte := p.mem.read ((ra.toNat + k) % 256)

/-- How byte `k` of `n` is received. -/
def burstRx (p : RefPeripheral) (ra : Byte) (n k : Nat) : WireEvent :=
  .rx (burstByte p ra k) (if k + 1 = n then .nack else .ack)

/-- The wire events of byte `i` of `n`: the first one comes after a repeated START, the last one before the STOP. -/
def byteEvents (p : RefPeripheral) (ra : Byte) (n i : Nat) : List WireEvent :=
  (if i = 0 then [.sr, .addr p.addr true .ack] else []) ++ [burstRx p ra n i] ++ (if i + 1 = n then [.p] else [])

/-- The wire events of the first `i` bytes of `n`. -/
def burstEvents (p : RefPeripheral) (ra : Byte) (n i : Nat) : List WireEvent :=
  (if i = 0 then [] else [.sr, .addr p.addr true .ack]) ++ (List.range i).map (burstRx p ra n) ++
    (if i = n then [.p] else [])

theorem burstEvents_succ (p : RefPeripheral) (ra : Byte) {n i : Nat} (hi : i < n) :
    burstEvents p ra n (i + 1) = burstEvents p ra n i ++ byteEvents p ra n i := by
  have hne : i ≠ n := by omega
  rcases Nat.eq_zero_or_pos i with rfl | hpos
  · simp [burstEvents, byteEvents, hne]
  · simp [burstEvents, byteEvents, hne, List.range_succ, Nat.ne_of_gt hpos]

/-- The peripheral after `i` bytes have been read from it. -/
def RefPeripheral.readUpTo (p : RefPeripheral) (ra : Byte) (i : Nat) (x : Addressed) (w : Nat) : RefPeripheral :=
  { p with addressed := x, ptr := ra + BitVec.ofNat 8 i, wc := w }

theorem toNat_add_ofNat (ra : Byte) (i : Nat) : (ra + BitVec.ofNat 8 i).toNat = (ra.toNat + i) % 256 := by
  simp [BitVec.toNat_add]

/-- The byte it answers is the burst's: the first after its address, a later one as it is addressed for read. -/
theorem RefPeripheral.readUpTo_rxByte (p : RefPeripheral) (ra : Byte) {i n w : Nat} {x : Addressed} {f : BusAnswer}
    {m : Master} (hx : 0 < i → x = .read) :
    ((p.readUpTo ra i x w).answer f m (rxcode i n)).rxByte = burstByte p ra i := by
  have hread : mcmdStartBit (rxcode i n) = true ∨ x = .read := by
    rcases Nat.eq_zero_or_pos i with rfl | hpos
    · exact Or.inl (mcmdStartBit_rxcode 0 n)
    · exact Or.inr (hx hpos)
  rw [RefPeripheral.answer_rxByte (p := p.readUpTo ra i x w) hread]
  exact congrArg p.mem.read (toNat_add_ofNat ra i)

theorem after_byteEvents (p : RefPeripheral) (ra : Byte) {i n w : Nat} {x : Addressed} (hx : 0 < i → x = .read) :
    (BusEnv.reference (p.readUpTo ra i x w)).after (byteEvents p ra n i) =
      .reference (p.readUpTo ra (i + 1) (if i + 1 = n then .no else .read) w) := by
  have hptr : ra + BitVec.ofNat 8 i + 1 = ra + BitVec.ofNat 8 (i + 1) := by
    refine BitVec.eq_of_toNat_eq ?_
    rw [toNat_add_ofNat, BitVec.toNat_add, toNat_add_ofNat]
    simp [Nat.add_assoc]
  have hstart : (if i = 0 then [WireEvent.sr, .addr p.addr true .ack] else []).foldl RefPeripheral.onEvent
      (p.readUpTo ra i x w) = p.readUpTo ra i .read w := by
    rcases Nat.eq_zero_or_pos i with rfl | hpos
    · simp [RefPeripheral.onEvent, RefPeripheral.onAddr, RefPeripheral.readUpTo]
    · rw [if_neg (Nat.ne_of_gt hpos), hx hpos]
      rfl
  have hrx : (p.readUpTo ra i .read w).onEvent (burstRx p ra n i) = p.readUpTo ra (i + 1) .read w := by
    rw [burstRx, RefPeripheral.onEvent_rx rfl]
    simp only [RefPeripheral.advance, RefPeripheral.readUpTo, hptr]
  simp only [BusEnv.after, byteEvents, List.foldl_append, hstart, List.foldl_cons, List.foldl_nil, hrx]
  split <;> rfl

/-! ### One byte of the burst -/

/-- The phase of a burst of `n` bytes after `i` of them. -/
def burstPhase (i n : Nat) : Phase := if i = n then .done else if i = 0 then .startAddrR else .recvByte

theorem burstPhase_succ (i n : Nat) : burstPhase (i + 1) n = if i + 1 = n then .done else .recvByte := by
  rw [burstPhase, if_neg (Nat.succ_ne_zero i)]

/-- A BURST_READ of `n` bytes of `p` from the register `ra` on has received `i` of them without an error. It began with
the registers `r` and the trace `trace`, and the turns of `l` come after its own. -/
structure State.HasReceived (u : State) (p : RefPeripheral) (ra : Byte) (n : Nat) (r : Regs) (trace : List WireEvent)
    (l : List Agent) (i : Nat) : Prop where
  begins : u.Begins .burstRead (burstPhase i n)
  initDone : u.regs.status.initDone = true
  err : u.seq.err = 0
  sa : u.seq.sa = p.addr
  count : u.seq.n.toNat = n
  index : i < n → u.seq.i.toNat = i
  held : u.m.held = decide (i < n)
  dir : 0 < i → u.m.dir = true
  env : ∃ x w, u.env = .reference (p.readUpTo ra i x w) ∧ (0 < i → i < n → x = .read)
  buf : ∀ k, bufByte u.regs k = if k < i then burstByte p ra k else bufByte r k
  trace : u.trace = trace ++ burstEvents p ra n i
  sched : u.sched = phaseTurns (n - i) ++ .sequencer :: l

theorem bufByte_setBufByte (r : Regs) {i : Nat} (hi : i < 16) (b : Byte) (k : Nat) :
    bufByte (setBufByte r i b) k = if k = i then b else bufByte r k := by
  unfold bufByte setBufByte
  rw [Vector.getElem?_setIfInBounds]
  by_cases h : i = k
  · subst h
    simp [hi]
  · rw [if_neg h, if_neg (Ne.symm h)]

theorem phaseTurns_succ (k : Nat) : phaseTurns (k + 1) = [.sequencer, .master, .sequencer] ++ phaseTurns k := rfl

section

variable {u : State} {p : RefPeripheral} {ra : Byte} {n i : Nat} {r : Regs} {trace : List WireEvent} {l : List Agent}

/-- The phase of byte `i`: its master command completes with the byte and leaves the bus held up to the last one. -/
theorem byte_completes (h : u.HasReceived p ra n r trace l i) (hn : p.nackAt = none) (hi : i < n) (n₀ : Nat)
    (h₀ : History) {m : Master} (hm : m = phaseMaster .burstRead u) {a : BusAnswer}
    (ha : a = u.env.answer n₀ h₀ (m.working (rxcode i n)) (rxcode i n)) :
    ∃ m', u.completion a (rxcode i n) (m.working (rxcode i n)) = u.completed a m' (byteEvents p ra n i) ∧
      m'.en = u.m.en ∧ m'.held = decide (i + 1 < n) ∧ m'.dir = true ∧ m'.error = false ∧
      m'.dr = burstByte p ra i := by
  obtain ⟨x, w, henv, hx⟩ := h.env
  have hbyte : a.rxByte = burstByte p ra i := by
    rw [ha, henv]
    exact p.readUpTo_rxByte ra fun hpos => hx hpos hi
  have hheld : decide (i + 1 < n) = (!mcmdStopBit (rxcode i n) && true) := by
    rw [mcmdStopBit_rxcode, Bool.and_true, ← decide_not]
    exact decide_eq_decide.mpr (by omega)
  obtain ⟨hmen, hmheld⟩ : m.en = u.m.en ∧ m.held = true := by
    obtain ⟨hen, hheld⟩ := phaseMaster_frame .burstRead u
    rw [hm, hen, hheld, h.held]
    exact ⟨rfl, decide_eq_true hi⟩
  have hphase := h.begins.mayIssue.1
  rcases Nat.eq_zero_or_pos i with rfl | hpos
  · rw [burstPhase, if_neg (by omega), if_pos rfl] at hphase
    have hsa : m.sa = addrByte p.addr true := by
      rw [hm, phaseMaster_startAddrR hphase, ← h.sa]; rfl
    have herr : addressError a = 0 := by
      rw [ha, henv]
      exact RefPeripheral.answer_own_start rfl hsa hn (mcmdStartBit_rxcode 0 n)
    have hstart : startEvent m = .sr := by rw [startEvent, if_pos hmheld]
    have hcompletion := receive_first_completes (s := u) (mcmdStartBit_rxcode 0 n) (mcmdRunBit_rxcode 0 n) hsa herr
    rw [hstart, hbyte, ackOf_rxcode hi, stopEvents_rxcode] at hcompletion
    exact ⟨_, hcompletion, hmen, hheld.symm, addressed_dir (m := m.working (rxcode 0 n)) hsa, rfl, rfl⟩
  · rw [burstPhase, if_neg (by omega), if_neg (by omega)] at hphase
    have hdir : m.dir = true := by rw [hm, phaseMaster_recvByte hphase]; exact h.dir hpos
    have hd : a.lostBeforeData = false := by rw [ha, henv]; rfl
    have hstart : mcmdStartBit (rxcode i n) = false := by rw [mcmdStartBit_rxcode]; exact decide_eq_false (by omega)
    have hcompletion := receive_later_completes (s := u) hstart (mcmdRunBit_rxcode i n) hdir hd
    have hevents : byteEvents p ra n i = burstRx p ra n i :: if i + 1 = n then [.p] else [] := by
      rw [byteEvents, if_neg (by omega)]; rfl
    rw [hbyte, ackOf_rxcode hi, stopEvents_rxcode] at hcompletion
    rw [hevents]
    refine ⟨_, hcompletion, hmen, ?_, hdir, rfl, rfl⟩
    rw [hheld, ← hmheld]
    rfl

/-- One byte in three turns. -/
theorem State.HasReceived.next (h : u.HasReceived p ra n r trace l i) (hn : p.nackAt = none) (hi : i < n)
    (hn16 : n ≤ 16) : ∃ v, u.RunsTo 3 v ∧ v.HasReceived p ra n r trace l (i + 1) := by
  have hphase : burstPhase i n = .startAddrR ∨ burstPhase i n = .recvByte := by
    rw [burstPhase, if_neg (by omega)]
    split
    · exact Or.inl rfl
    · exact Or.inr rfl
  have hphaseOf : phaseOf .burstRead (burstPhase i n) = true := by rcases hphase with hp | hp <;> rw [hp] <;> rfl
  have hjudge : phaseJudge .burstRead (burstPhase i n) = received := by rcases hphase with hp | hp <;> rw [hp] <;> rfl
  have hcode : phaseCode .burstRead u.seq = some (rxcode i n) := by
    rw [phaseCode_received (h.begins.mayIssue.1 ▸ hphase), rxNow, h.index hi, h.count]
  have hsched : u.sched = .sequencer :: .master :: .sequencer :: (phaseTurns (n - (i + 1)) ++ .sequencer :: l) := by
    rw [h.sched, show n - i = n - (i + 1) + 1 by omega, phaseTurns_succ]
    rfl
  have hheld : u.m.held = true := by rw [h.held]; exact decide_eq_true hi
  obtain ⟨n₀, h₀, n₁, q, hruns⟩ := runsTo_phase h.begins hphaseOf hcode (fun _ => hheld) hsched
  obtain ⟨m, hcompletion, hen, hheld', hdir, herr, hdr⟩ := byte_completes h hn hi n₀ h₀ rfl rfl
  rw [hcompletion, hjudge] at hruns
  let w := (u.completed (u.env.answer n₀ h₀ ((phaseMaster .burstRead u).working (rxcode i n)) (rxcode i n)) m
    (byteEvents p ra n i)).booked (phaseTurns (n - (i + 1)) ++ .sequencer :: l) 0 n₁ q
  have hwi : (storeByte w).seq.i.toNat = i := h.index hi
  have hwn : (storeByte w).seq.n.toNat = n := h.count
  have hreceived : received w = State.atPhase
      { storeByte w with seq := { u.seq with i := if i + 1 = n then u.seq.i else u.seq.i + 1 } }
      (burstPhase (i + 1) n) := by
    rw [received, unlessError_of_no_error (s := w) herr, nextByte_eq, hwi, hwn, burstPhase_succ]
    rfl
  rw [show received (State.booked _ _ 0 n₁ q) = _ from hreceived] at hruns
  obtain ⟨x, y, henv, hx⟩ := h.env
  refine ⟨_, hruns, ?_⟩
  exact {
    begins := ⟨h.begins.running, ⟨rfl, rfl, hen.trans h.begins.mayIssue.2.2⟩, rfl, h.begins.fault⟩
    initDone := h.initDone
    err := h.err
    sa := h.sa
    count := h.count
    index := by
      intro hlt
      have hsucc : (u.seq.i + 1).toNat = u.seq.i.toNat + 1 := by
        have := h.index hi
        bv_omega
      show (if i + 1 = n then u.seq.i else u.seq.i + 1).toNat = i + 1
      rw [if_neg (by omega), hsucc, h.index hi]
    held := hheld'
    dir := fun _ => hdir
    env := by
      refine ⟨if i + 1 = n then .no else .read, y, ?_, fun _ hlt => if_neg (by omega)⟩
      show u.env.after (byteEvents p ra n i) = _
      rw [henv, after_byteEvents p ra fun hpos => hx hpos hi]
    buf := by
      intro k
      show bufByte (setBufByte u.regs u.seq.i.toNat m.dr) k = _
      rw [h.index hi, bufByte_setBufByte _ (by omega), hdr, h.buf]
      by_cases hk : k = i
      · rw [if_pos hk, if_pos (by omega), hk]
      · rw [if_neg hk]
        exact if_congr (by omega) rfl rfl
    trace := by
      show u.trace ++ byteEvents p ra n i = _
      rw [h.trace, burstEvents_succ p ra hi, List.append_assoc]
    sched := rfl }

/-- The bytes up to the last. -/
theorem State.HasReceived.all (k : Nat) (h : u.HasReceived p ra n r trace l i) (hn : p.nackAt = none)
    (hk : i + k = n) (hn16 : n ≤ 16) : ∃ v, u.RunsTo (3 * k) v ∧ v.HasReceived p ra n r trace l n := by
  induction k generalizing u i with
  | zero =>
    obtain rfl : i = n := hk
    exact ⟨u, .refl u, h⟩
  | succ k ih =>
    obtain ⟨v, hruns, hv⟩ := h.next hn (by omega) hn16
    rw [Nat.mul_succ, Nat.add_comm]
    exact hruns.trans_exists (ih hv (by omega))

/-- After the last byte, the return. -/
theorem State.HasReceived.finishes (h : u.HasReceived p ra n r trace l n) :
    ∃ t, u.RunsTo 1 t ∧ t.Finished { u.regs with result := 0 } (trace ++ burstEvents p ra n n) u.env u.host l := by
  have hbegins := h.begins
  rw [burstPhase, if_pos rfl] at hbegins
  have hsched : u.sched = .sequencer :: l := by rw [h.sched, Nat.sub_self]; rfl
  have hheld : u.m.held = false := h.held.trans (decide_eq_false (Nat.lt_irrefl n))
  rw [← h.trace, ← h.err]
  exact done_finishes [] hbegins rfl h.initDone hheld (by decide) hsched

end

/-- Settles O59: the address phase, then one byte after the other, and the return. -/
theorem burstReadFillsTheBuffer : Obligations.BurstReadFillsTheBuffer := by
  intro s p n rest agents hr henv haddr hn _ hcount hpos hn16 hhost hs
  have hcount' : s.regs.count.toNat = n := by rw [hcount, BitVec.toNat_ofNat, Nat.mod_eq_of_lt (by omega)]
  have hfirst : firstPhase .burstRead s.regs.count = .startAddrW := by
    rw [firstPhase_burst (Or.inl rfl), if_neg (by bv_omega)]
  obtain ⟨n₀, h₀, a, m, n₁, q, ha, hruns, hleaves, hdir⟩ := runsTo_addressed (op := .burstRead)
    (l := phaseTurns n ++ .sequencer :: agents) hr (by decide) hfirst (by unfold bufLen; omega) hhost
    (by rw [hs, phaseTurns_succ]; simp)
  have herr : addressError a = 0 := by
    rw [← ha, henv]
    exact RefPeripheral.answer_own_start haddr rfl hn rfl
  obtain ⟨hf, _, hinit, hen, _⟩ := hr
  let w := addressedState s .burstRead rest a m (phaseTurns n ++ .sequencer :: agents) n₁ q
  have hjudge : phaseJudge .burstRead .startAddrW w = goto .startAddrR w :=
    unlessError_of_no_error (s := w) (hleaves.error.trans (by simp [herr]))
  rw [show phaseJudge .burstRead .startAddrW (addressedState _ _ _ _ _ _ _ _) = _ from hjudge] at hruns
  have hstart : (goto .startAddrR w).HasReceived p s.regs.ra n s.regs
      (s.trace ++ .s :: addressEvents a s.regs.sa s.regs.ra) agents 0 := {
    begins := by
      rw [burstPhase, if_neg (by omega), if_pos rfl]
      exact ⟨⟨rfl, rfl⟩, ⟨rfl, rfl, hleaves.en.trans hen⟩, rfl, hf⟩
    initDone := hinit
    err := rfl
    sa := haddr.symm
    count := hcount'
    index := fun _ => rfl
    held := hleaves.held.trans ((addressHeld_of_no_error herr).trans (decide_eq_true hpos).symm)
    dir := nofun
    env := by
      refine ⟨.write, 1, ?_, nofun⟩
      show s.env.after _ = _
      rw [henv, after_addressEvents haddr herr]
      simp [RefPeripheral.pointedTo, RefPeripheral.readUpTo]
    buf := fun k => (if_neg (Nat.not_lt_zero k)).symm
    trace := by
      show s.trace ++ _ = _ ++ burstEvents p s.regs.ra n 0
      simp [burstEvents, show 0 ≠ n by omega]
    sched := rfl }
  obtain ⟨v, hbytes, hv⟩ := hstart.all n hn (Nat.zero_add n) hn16
  obtain ⟨t, hend, hfin⟩ := hv.finishes
  have hbuf (k : Nat) : bufByte t.regs k = if k < n then burstByte p s.regs.ra k else bufByte s.regs k := by
    rw [hfin.regs]
    exact hv.buf k
  have htotal : 3 * n + 5 = 4 + (3 * n + 1) := by omega
  refine ⟨t, ?_, hfin.ready, ?_, fun k hk => ?_, fun k hk => ?_, ?_⟩
  · rw [htotal]
    exact hruns.trans (hbytes.trans hend)
  · rw [hfin.regs]
  · rw [hbuf, if_pos hk]
    rfl
  · rw [hbuf, if_neg (by omega)]
  · rw [hfin.trace, addressEvents_of_no_error herr, burstEvents, if_neg (by omega), if_pos rfl, haddr]
    simp only [List.append_assoc]
    rfl

end Sys2Proof.Machine
end

section
/-!
PROOFS. The family of 42_sensor_io: the assembled axis (R181), and the bytes of READ_ACCEL and READ_GYRO, gathered one
by one and stored by DONE (R182 to R187).
-/

namespace Sys2Proof.Machine

/-! ### The assembled axis (R181) -/

theorem assemble_eq_shiftLeft_or (hi lo : Byte) : assemble hi lo = hi.setWidth 16 <<< 8 ||| lo.setWidth 16 := by
  rw [assemble, BitVec.append_def, BitVec.shiftLeftZeroExtend_eq, BitVec.setWidth'_eq]

theorem assemble_toNat (hi lo : Byte) : (assemble hi lo).toNat = 256 * hi.toNat + lo.toNat := by
  rw [assemble, BitVec.toNat_append, ← Nat.shiftLeft_add_eq_or_of_lt lo.isLt, Nat.shiftLeft_eq, Nat.mul_comm]

/-- Settles O31: the append is the shift and the or; its value as a natural number gives the signed one. -/
theorem assembledAxisValue : Obligations.AssembledAxisValue := by
  intro hi lo
  refine ⟨assemble_eq_shiftLeft_or hi lo, ?_⟩
  rw [BitVec.toInt_eq_toNat_cond, assemble_toNat]
  split <;> split <;> omega

/-! ### READ_ACCEL and READ_GYRO (R182 to R187) -/

theorem rdtxTaken_eq (s : State) : rdtxTaken s = { s with draws := s.draws + if s.seq.rx then 0 else 1 } := by
  unfold rdtxTaken
  split <;> rfl

/-- One byte gathered; after the sixth `seq.t` stays at 5 (log entry 30). -/
theorem gathered_eq (s : State) :
    gathered s =
      State.atPhase
        { s with
          seq :=
            { s.seq with
              tmp := s.seq.tmp.setIfInBounds s.seq.t.toNat (rdtxByte s)
              t := if s.seq.t = 5 then 5 else s.seq.t + 1 }
          draws := s.draws + if s.seq.rx then 0 else 1 }
        (if s.seq.t = 5 then .done else .startAddrW) := by
  simp only [gathered, rdtxTaken_eq]
  split
  case isTrue h => rw [← h]; rfl
  case isFalse => rfl

/-- A sample's read is judged by whether a byte was received (log entry 1). -/
theorem phaseJudge_sample {op : HostCmd} (hop : op = .readAccel ∨ op = .readGyro) (s : State) :
    phaseJudge op .startAddrR s = gathered (s.setSeq { s.seq with rx := !s.m.error }) := by
  rcases hop with rfl | rfl <;> rfl

theorem tmpByte_eq_getElem (q : Seq) {k : Nat} (hk : k < 6) : tmpByte q k = q.tmp[k] := by
  simp [tmpByte, hk]

/-- The axes that DONE stores: of each pair of bytes the later one is the high byte (R182). -/
theorem assembleTmp_eq_append (q : Seq) :
    assembleTmp q = { x := q.tmp[1] ++ q.tmp[0], y := q.tmp[3] ++ q.tmp[2], z := q.tmp[5] ++ q.tmp[4] } := by
  simp only [assembleTmp, assemble, tmpByte_eq_getElem, Nat.reduceLT]

theorem exec_sampleDone {op : HostCmd} {s : State} (hop : op = .readAccel ∨ op = .readGyro) (hrun : s.running op)
    (hq : s.seq.phase = .done) : exec op.instr s = .next (s.returned (doneRegs op s)) := by
  rw [exec_of_running hrun.1 hrun.2]
  rcases hop with rfl | rfl <;> simp only [commandBody, sampleBody, hq] <;> rfl

/-- Settles O32: the judgement gathers the byte received or a free one, and DONE stores the assembled axes. -/
theorem samplesGatheredAndStored : Obligations.SamplesGatheredAndStored := by
  intro op s hop hrun
  refine ⟨fun h _ => ?gather, fun hq => ?store⟩
  case gather =>
    have hp : phaseOf op .startAddrR = true ∧ op ≠ .burstRead := by
      rcases hop with rfl | rfl <;> exact ⟨rfl, nofun⟩
    rw [exec_judges hrun h hp.1 (phaseCode_readTransaction hp.2 h.1), phaseJudge_sample hop, gathered_eq]
    cases he : s.m.error <;> simp [he, rdtxByte, markIssued, State.setSeq, State.atPhase]
  case store =>
    rw [exec_sampleDone hop hrun hq, ← assembleTmp_eq_append]
    rcases hop with rfl | rfl <;> rfl

end Sys2Proof.Machine
end

section
/-!
PROOFS. Binary formats and rounding to them (43_estimator R201, R205): the value that magnitude bits hold, and that
`roundMag` gives a nearest value of its format, with even magnitude bits where two are as near.
-/

namespace Sys2Proof.Machine

/-! ### The values of a format -/

/-- A value with `prec` bits of significand, no finer than 2^`emin`, of either sign and of any size. -/
def IsFloat (prec : Nat) (emin : Int) (v : ℚ) : Prop :=
  ∃ n e : Int, v = (n : ℚ) * (2 : ℚ) ^ e ∧ |n| < 2 ^ prec ∧ emin ≤ e

/-- `q` is a value of the format, and none is nearer to `v`. -/
def IsNearest (prec : Nat) (emin : Int) (v q : ℚ) : Prop :=
  IsFloat prec emin q ∧ ∀ c, IsFloat prec emin c → |v - q| ≤ |v - c|

/-- The value of magnitude bits with `p` bits of fraction, in the format whose smallest subnormal is 2^`emin`. -/
def magValue (p : Nat) (emin : Int) (mag : Nat) : ℚ :=
  if mag / 2 ^ p = 0 then ((mag % 2 ^ p : Nat) : ℚ) * 2 ^ emin
  else ((mag % 2 ^ p + 2 ^ p : Nat) : ℚ) * 2 ^ (emin + (mag / 2 ^ p : Nat) - 1)

section

variable {p prec : Nat} {emin : Int} {v q c : ℚ}

theorem IsFloat.neg (h : IsFloat prec emin v) : IsFloat prec emin (-v) := by
  obtain ⟨n, e, rfl, hn, he⟩ := h
  exact ⟨-n, e, by push_cast; ring, by rwa [abs_neg], he⟩

theorem exists_eq_mul_of_le (n : Int) {e f : Int} (hef : e ≤ f) : ∃ k : Int, (n : ℚ) * 2 ^ f = k * (2 : ℚ) ^ e := by
  refine ⟨n * 2 ^ (f - e).toNat, ?_⟩
  push_cast
  rw [mul_assoc, ← zpow_natCast, Int.toNat_of_nonneg (by omega), ← zpow_add₀ (by norm_num), sub_add_cancel]

/-- Values from the `prec`-bit multiples of 2^`e` on are multiples of 2^`e`. -/
theorem IsFloat.exists_eq_mul {e : Int} (h : IsFloat (p + 1) emin c) (hc : 2 ^ p * (2 : ℚ) ^ e ≤ |c|) :
    ∃ k : Int, c = k * (2 : ℚ) ^ e := by
  obtain ⟨n, f, rfl, hn, -⟩ := h
  have hef : e ≤ f := by
    by_contra! hlt
    have hn' : |(n : ℚ)| < 2 ^ (p + 1) := by exact_mod_cast hn
    rw [abs_mul, abs_of_pos (zpow_pos (by norm_num : (0 : ℚ) < 2) f)] at hc
    have hf : (2 : ℚ) ^ (f + 1) ≤ 2 ^ e := zpow_le_zpow_right₀ (by norm_num) (by omega)
    have hpos : (0 : ℚ) < 2 ^ f := zpow_pos (by norm_num) f
    have : |(n : ℚ)| * 2 ^ f < 2 ^ p * 2 ^ e := calc
      |(n : ℚ)| * 2 ^ f < 2 ^ (p + 1) * 2 ^ f := mul_lt_mul_of_pos_right hn' hpos
      _ = 2 ^ p * 2 ^ (f + 1) := by rw [zpow_add_one₀ (by norm_num)]; ring
      _ ≤ 2 ^ p * 2 ^ e := by gcongr
    linarith
  exact exists_eq_mul_of_le n hef

theorem IsFloat.exists_eq_mul_unit (h : IsFloat prec emin c) : ∃ k : Int, c = k * (2 : ℚ) ^ emin := by
  obtain ⟨n, f, rfl, -, hf⟩ := h
  exact exists_eq_mul_of_le n hf

theorem IsNearest.neg (h : IsNearest prec emin v q) : IsNearest prec emin (-v) (-q) := by
  refine ⟨h.1.neg, fun c hc => ?_⟩
  rw [neg_sub_neg, abs_sub_comm, ← abs_neg (-v - c), neg_sub, sub_neg_eq_add, add_comm, ← sub_neg_eq_add]
  exact h.2 _ hc.neg

/-- A value of the format is rounded to itself. -/
theorem IsNearest.eq_of_isFloat (h : IsNearest prec emin v q) (hv : IsFloat prec emin v) : q = v := by
  have := h.2 v hv
  rw [sub_self, abs_zero] at this
  linarith [abs_nonpos_iff.mp this]

/-- Rounding does not pass a value of the format. -/
theorem IsNearest.le_of_le (h : IsNearest prec emin v q) (hc : IsFloat prec emin c) (hle : c ≤ v) : c ≤ q := by
  have := (le_abs_self (v - q)).trans (h.2 c hc)
  rw [abs_of_nonneg (sub_nonneg.mpr hle)] at this
  linarith

theorem IsNearest.ge_of_ge (h : IsNearest prec emin v q) (hc : IsFloat prec emin c) (hle : v ≤ c) : q ≤ c := by
  have := h.neg.le_of_le hc.neg (neg_le_neg hle)
  linarith

end

/-! ### Magnitude bits -/

/-- Every magnitude is `j` steps of the exponent and a significand, full from the first step on. -/
theorem exists_significand (p mag : Nat) :
    ∃ j n, mag = j * 2 ^ p + n ∧ n < 2 ^ (p + 1) ∧ (j = 0 ∨ 2 ^ p ≤ n) := by
  have hmod := Nat.mod_lt mag (Nat.two_pow_pos p)
  have hdiv := Nat.div_add_mod' mag (2 ^ p)
  have hpow : 2 ^ (p + 1) = 2 * 2 ^ p := by ring
  rcases h : mag / 2 ^ p with _ | j
  · rw [h] at hdiv
    exact ⟨0, mag, by omega, by omega, Or.inl rfl⟩
  · rw [h] at hdiv
    exact ⟨j, mag % 2 ^ p + 2 ^ p, by linarith, by omega, Or.inr (by omega)⟩

/-- A significand that rounding has carried to 2^(`p` + 1) is the next exponent's smallest one. -/
theorem magValue_eq (p : Nat) (emin : Int) {j n : Nat} (hn : n ≤ 2 ^ (p + 1)) (hj : j = 0 ∨ 2 ^ p ≤ n) :
    magValue p emin (j * 2 ^ p + n) = n * (2 : ℚ) ^ (emin + j) := by
  have hpos := Nat.two_pow_pos p
  have hpow : 2 ^ (p + 1) = 2 ^ p + 2 ^ p := by ring
  rcases (by omega : n < 2 ^ p ∨ (2 ^ p ≤ n ∧ n < 2 ^ p + 2 ^ p) ∨ n = 2 ^ p + 2 ^ p) with hlt | ⟨hle, hlt⟩ | heq
  · obtain rfl : j = 0 := hj.resolve_right (by omega)
    simp [magValue, Nat.div_eq_of_lt hlt, Nat.mod_eq_of_lt hlt]
  · obtain ⟨r, rfl⟩ := Nat.exists_eq_add_of_le hle
    have hr : r < 2 ^ p := by omega
    have hmag : j * 2 ^ p + (2 ^ p + r) = r + (j + 1) * 2 ^ p := by ring
    rw [magValue, hmag, Nat.add_mul_div_right _ _ hpos, Nat.add_mul_mod_self_right, Nat.div_eq_of_lt hr,
      Nat.mod_eq_of_lt hr, if_neg (by omega), Nat.add_comm r]
    congr 2
    push_cast
    ring
  · subst heq
    have hmag : j * 2 ^ p + (2 ^ p + 2 ^ p) = 0 + (j + 2) * 2 ^ p := by ring
    rw [magValue, hmag, Nat.add_mul_div_right _ _ hpos, Nat.add_mul_mod_self_right, Nat.zero_div, Nat.zero_mod,
      if_neg (by omega)]
    have : emin + ((0 + (j + 2) : Nat) : Int) - 1 = emin + j + 1 := by push_cast; ring
    rw [this, zpow_add_one₀ (by norm_num)]
    push_cast
    ring

theorem magValue_strictMono (p : Nat) (emin : Int) : StrictMono (magValue p emin) := by
  refine strictMono_nat_of_lt_succ fun mag => ?_
  obtain ⟨j, n, rfl, hn, hj⟩ := exists_significand p mag
  rw [magValue_eq p emin hn.le hj, Nat.add_assoc, magValue_eq p emin hn (by omega)]
  have : (0 : ℚ) < 2 ^ (emin + j) := zpow_pos (by norm_num) _
  push_cast
  linarith

theorem magValue_zero (p : Nat) (emin : Int) : magValue p emin 0 = 0 := by simp [magValue]

theorem magValue_nonneg (p : Nat) (emin : Int) (mag : Nat) : 0 ≤ magValue p emin mag := by
  rw [← magValue_zero p emin]
  exact (magValue_strictMono p emin).monotone (Nat.zero_le _)

theorem isFloat_magValue (p : Nat) (emin : Int) (mag : Nat) : IsFloat (p + 1) emin (magValue p emin mag) := by
  obtain ⟨j, n, rfl, hn, hj⟩ := exists_significand p mag
  refine ⟨n, emin + j, magValue_eq p emin hn.le hj, ?_, by omega⟩
  rw [Nat.abs_cast]
  exact_mod_cast hn

/-! ### The rounding of one quotient -/

theorem zpow_toNat {k : Int} (hk : 0 ≤ k) : (2 : ℚ) ^ k.toNat = 2 ^ k := by
  rw [← zpow_natCast, Int.toNat_of_nonneg hk]

/-- Half a unit up or down, an even result where both are as near. -/
theorem div_round_half_even {n d : Nat} (hd : d ≠ 0) :
    let m := if d < 2 * (n % d) || (2 * (n % d) == d && n / d % 2 == 1) then n / d + 1 else n / d
    |(n : ℚ) / d - m| ≤ 1 / 2 ∧ (|(n : ℚ) / d - m| = 1 / 2 → Even m) := by
  intro m
  have hdpos : (0 : ℚ) < d := by exact_mod_cast Nat.pos_of_ne_zero hd
  have hdiv : (n : ℚ) / d = (n / d : Nat) + (n % d : Nat) / (d : ℚ) := by
    rw [div_eq_iff hdpos.ne', add_mul, div_mul_cancel₀ _ hdpos.ne']
    exact_mod_cast (Nat.div_add_mod' n d).symm
  have hlt : ((n % d : Nat) : ℚ) < d := by exact_mod_cast Nat.mod_lt n (Nat.pos_of_ne_zero hd)
  have hr : (0 : ℚ) ≤ (n % d : Nat) / d := by positivity
  have hr1 : ((n % d : Nat) : ℚ) / d < 1 := by rwa [div_lt_one hdpos]
  have half_lt : d < 2 * (n % d) ↔ (1 : ℚ) / 2 < (n % d : Nat) / d := by
    rw [lt_div_iff₀ hdpos, ← @Nat.cast_lt ℚ]
    push_cast
    constructor <;> intro h <;> linarith
  have half_eq : 2 * (n % d) = d ↔ ((n % d : Nat) : ℚ) / d = 1 / 2 := by
    rw [div_eq_iff hdpos.ne', ← @Nat.cast_inj ℚ]
    push_cast
    constructor <;> intro h <;> linarith
  rw [hdiv]
  generalize ((n % d : Nat) : ℚ) / d = f at *
  by_cases hup : d < 2 * (n % d) || (2 * (n % d) == d && n / d % 2 == 1)
  · simp only [m, hup, if_true]
    push_cast
    simp only [Bool.or_eq_true, decide_eq_true_eq, Bool.and_eq_true, beq_iff_eq, half_lt, half_eq] at hup
    rw [show ((n / d : Nat) : ℚ) + f - ((n / d : Nat) + 1) = -(1 - f) by ring, abs_neg, abs_of_pos (by linarith)]
    rcases hup with h | ⟨h, hodd⟩
    · exact ⟨by linarith, fun he => absurd he (by linarith)⟩
    · exact ⟨by linarith, fun _ => Nat.even_iff.mpr (by omega)⟩
  · simp only [m, hup, if_false, Bool.false_eq_true]
    simp only [Bool.or_eq_true, decide_eq_true_eq, Bool.and_eq_true, beq_iff_eq, half_lt, half_eq, not_or, not_and] at hup
    rw [add_sub_cancel_left, abs_of_nonneg hr]
    exact ⟨by linarith [hup.1], fun he => Nat.even_iff.mpr (by have := hup.2 he; omega)⟩

/-- num / den lies between two consecutive powers of 2. -/
theorem floorLog2_spec {num den : Nat} (hn : num ≠ 0) (hd : den ≠ 0) :
    (2 : ℚ) ^ floorLog2 num den ≤ (num : ℚ) / den ∧ (num : ℚ) / den < 2 ^ (floorLog2 num den + 1) := by
  have hdpos : (0 : ℚ) < den := by exact_mod_cast Nat.pos_of_ne_zero hd
  have hnpos : (0 : ℚ) < num := by exact_mod_cast Nat.pos_of_ne_zero hn
  have hn1 : (2 : ℚ) ^ (num.log2 : Int) ≤ num := by rw [zpow_natCast]; exact_mod_cast Nat.log2_self_le hn
  have hn2 : (num : ℚ) < 2 ^ ((num.log2 : Int) + 1) := by exact_mod_cast @Nat.lt_log2_self num
  have hd1 : (2 : ℚ) ^ (den.log2 : Int) ≤ den := by rw [zpow_natCast]; exact_mod_cast Nat.log2_self_le hd
  have hd2 : (den : ℚ) < 2 ^ ((den.log2 : Int) + 1) := by exact_mod_cast @Nat.lt_log2_self den
  set k : Int := (num.log2 : Int) - den.log2 with hk
  have hlow : (2 : ℚ) ^ (k - 1) ≤ num / den := by
    rw [le_div_iff₀ hdpos]
    calc (2 : ℚ) ^ (k - 1) * den ≤ 2 ^ (k - 1) * 2 ^ ((den.log2 : Int) + 1) := by gcongr
      _ = 2 ^ (num.log2 : Int) := by rw [← zpow_add₀ (by norm_num), hk]; congr 1; ring
      _ ≤ num := hn1
  have hhigh : (num : ℚ) / den < 2 ^ (k + 1) := by
    rw [div_lt_iff₀ hdpos]
    calc (num : ℚ) < 2 ^ ((num.log2 : Int) + 1) := hn2
      _ = 2 ^ (k + 1) * 2 ^ (den.log2 : Int) := by rw [← zpow_add₀ (by norm_num), hk]; congr 1; ring
      _ ≤ 2 ^ (k + 1) * den := by gcongr
  have fits_iff : (if 0 ≤ k then decide (den * 2 ^ k.toNat ≤ num) else decide (den ≤ num * 2 ^ (-k).toNat)) = true ↔
      (2 : ℚ) ^ k ≤ num / den := by
    rw [le_div_iff₀ hdpos]
    split
    · rw [decide_eq_true_eq, ← zpow_toNat ‹0 ≤ k›, ← @Nat.cast_le ℚ]
      push_cast
      rw [mul_comm]
    · rw [decide_eq_true_eq, ← @Nat.cast_le ℚ]
      push_cast
      rw [zpow_toNat (by omega), zpow_neg, ← div_eq_mul_inv, le_div_iff₀ (by positivity), mul_comm]
  have hfloor : floorLog2 num den = if (2 : ℚ) ^ k ≤ num / den then k else k - 1 := by
    rw [floorLog2, ← hk]
    exact if_congr fits_iff rfl rfl
  rw [hfloor]
  split
  · exact ⟨‹_›, hhigh⟩
  · exact ⟨hlow, by rw [sub_add_cancel]; exact not_le.mp ‹_›⟩

/-- What `roundMag` gives for a value that is not 0: `j` exponent steps and a significand `n`, the value in units of
2^(`emin` + `j`) rounded half to even; the value fills the significand unless the unit is the format's smallest. -/
theorem roundMag_cases (p : Nat) (emin : Int) {num den : Nat} (hn : num ≠ 0) (hd : den ≠ 0) :
    ∃ j n : Nat, roundMag (p + 1) emin num den = j * 2 ^ p + n ∧
      |(num : ℚ) / den - n * 2 ^ (emin + j)| ≤ 2 ^ (emin + j) / 2 ∧
      (|(num : ℚ) / den - n * 2 ^ (emin + j)| = 2 ^ (emin + j) / 2 → Even n) ∧
      (j = 0 ∨ 2 ^ p * 2 ^ (emin + j) ≤ (num : ℚ) / den) ∧ (num : ℚ) / den < 2 ^ (p + 1) * 2 ^ (emin + j) := by
  obtain ⟨hlow, hhigh⟩ := floorLog2_spec hn hd
  set f := floorLog2 num den with hf
  set e : Int := max emin (f - p) with he
  set u : ℚ := 2 ^ e with hu
  have hupos : 0 < u := zpow_pos (by norm_num) e
  set a : Nat := if e < 0 then num * 2 ^ (-e).toNat else num with ha
  set d : Nat := if e < 0 then den else den * 2 ^ e.toNat with hd'
  have hd0 : d ≠ 0 := by rw [hd']; split <;> positivity
  have hunits : (num : ℚ) / den = a / d * u := by
    rw [ha, hd', hu]
    split
    · push_cast
      rw [zpow_toNat (by omega), zpow_neg]
      field_simp
    · push_cast
      rw [zpow_toNat (by omega)]
      field_simp
  set m := if d < 2 * (a % d) || (2 * (a % d) == d && a / d % 2 == 1) then a / d + 1 else a / d with hm
  have hmag : roundMag (p + 1) emin num den = (e - emin).toNat * 2 ^ p + m := by
    simp only [roundMag, if_neg hn, Nat.cast_add, Nat.cast_one, add_sub_cancel_right, Nat.add_sub_cancel]
    rfl
  have hj : emin + ((e - emin).toNat : Int) = e := by
    rw [Int.toNat_of_nonneg (by omega)]
    ring
  obtain ⟨hhalf, htie⟩ := div_round_half_even (n := a) hd0
  rw [← hm] at hhalf htie
  have hdist : |(num : ℚ) / den - m * u| = |(a : ℚ) / d - m| * u := by
    rw [hunits, ← sub_mul, abs_mul, abs_of_pos hupos]
  refine ⟨(e - emin).toNat, m, hmag, ?_⟩
  rw [hj, ← hu, hdist]
  refine ⟨?_, fun h => htie ?_, ?_, ?_⟩
  · nlinarith
  · exact mul_right_cancel₀ hupos.ne' (by linarith)
  · rcases le_total (f - p) emin with hle | hle
    · left
      omega
    · right
      rw [hu, he, max_eq_right hle, ← zpow_natCast, ← zpow_add₀ (by norm_num), add_sub_cancel]
      exact hlow
  · refine hhigh.trans_le ?_
    rw [hu, ← zpow_natCast, ← zpow_add₀ (by norm_num)]
    exact zpow_le_zpow_right₀ (by norm_num) (by push_cast; omega)

/-- The rounded significand is full where the value is, and at most one past the largest. -/
theorem significand_bounds {p j n : Nat} {emin : Int} {v : ℚ} (hhalf : |v - n * 2 ^ (emin + j)| ≤ 2 ^ (emin + j) / 2)
    (hfull : j = 0 ∨ 2 ^ p * 2 ^ (emin + j) ≤ v) (hlt : v < 2 ^ (p + 1) * 2 ^ (emin + j)) :
    n ≤ 2 ^ (p + 1) ∧ (j = 0 ∨ 2 ^ p ≤ n) := by
  set u : ℚ := 2 ^ (emin + (j : Int))
  have hupos : 0 < u := zpow_pos (by norm_num) _
  obtain ⟨h1, h2⟩ := abs_le.mp hhalf
  constructor
  · by_contra! h
    have : ((2 ^ (p + 1) : Nat) : ℚ) + 1 ≤ n := by exact_mod_cast h
    push_cast at this
    nlinarith
  · refine hfull.imp_right fun hv => ?_
    by_contra! h
    have : (n : ℚ) + 1 ≤ (2 ^ p : Nat) := by exact_mod_cast h
    push_cast at this
    nlinarith

/-- Multiples of the unit are no nearer than half a unit; finer values lie below every full significand. -/
theorem nearest_of_half_unit {p j n : Nat} {emin : Int} {v c : ℚ}
    (hhalf : |v - n * 2 ^ (emin + j)| ≤ 2 ^ (emin + j) / 2)
    (htie : |v - n * 2 ^ (emin + j)| = 2 ^ (emin + j) / 2 → Even n)
    (hfull : j = 0 ∨ 2 ^ p * 2 ^ (emin + j) ≤ v) (hc : IsFloat (p + 1) emin c) :
    |v - n * 2 ^ (emin + j)| ≤ |v - c| ∧
      (|v - n * 2 ^ (emin + j)| = |v - c| → c ≠ n * 2 ^ (emin + j) → Even n) := by
  set u : ℚ := 2 ^ (emin + (j : Int)) with hu
  have hupos : 0 < u := zpow_pos (by norm_num) _
  have multiple (k : Int) (hk : (k : ℚ) * u ≠ n * u) : u / 2 ≤ |v - k * u| := by
    have hkn : (1 : ℚ) ≤ |(k : ℚ) - n| := by
      have : k - n ≠ 0 := fun h => hk (by rw [show k = n by omega]; push_cast; rfl)
      exact_mod_cast Int.one_le_abs this
    have hdist : u ≤ |(k : ℚ) * u - n * u| := by
      rw [← sub_mul, abs_mul, abs_of_pos hupos]
      nlinarith
    linarith [abs_sub_le (k * u) v (n * u), abs_sub_comm v (k * u)]
  by_cases hmul : ∃ k : Int, c = k * u
  · obtain ⟨k, rfl⟩ := hmul
    by_cases hk : (k : ℚ) * u = n * u
    · rw [hk]
      exact ⟨le_rfl, fun _ h => absurd rfl h⟩
    · have := multiple k hk
      exact ⟨hhalf.trans this, fun h _ => htie (le_antisymm hhalf (h ▸ this))⟩
  · have hlt : |c| < 2 ^ p * u := not_le.mp fun h => hmul (hc.exists_eq_mul h)
    have hv : 2 ^ p * u ≤ v := by
      refine hfull.resolve_left fun hj => hmul ?_
      obtain ⟨k, hk⟩ := hc.exists_eq_mul_unit
      exact ⟨k, by rw [hk, hu, hj, Nat.cast_zero, add_zero]⟩
    have hle : |v - n * u| ≤ v - 2 ^ p * u := by
      by_cases hk : ((2 ^ p : Int) : ℚ) * u = n * u
      · rw [← hk]
        push_cast
        exact (abs_of_nonneg (by linarith)).le
      · have := multiple _ hk
        push_cast at this
        rw [abs_of_nonneg (by linarith : 0 ≤ v - 2 ^ p * u)] at this
        exact hhalf.trans this
    have hstrict : |v - n * u| < |v - c| := by linarith [le_abs_self c, le_abs_self (v - c)]
    exact ⟨hstrict.le, fun h => absurd h hstrict.ne⟩

/-- `roundMag` rounds to nearest. -/
theorem roundMag_isNearest (p : Nat) (emin : Int) (num : Nat) {den : Nat} (hd : den ≠ 0) :
    IsNearest (p + 1) emin ((num : ℚ) / den) (magValue p emin (roundMag (p + 1) emin num den)) := by
  refine ⟨isFloat_magValue _ _ _, fun c hc => ?_⟩
  by_cases hn : num = 0
  · simp [hn, roundMag, magValue_zero]
  · obtain ⟨j, n, hmag, hhalf, htie, hfull, hlt⟩ := roundMag_cases p emin hn hd
    obtain ⟨hle, hj⟩ := significand_bounds hhalf hfull hlt
    rw [hmag, magValue_eq p emin hle hj]
    exact (nearest_of_half_unit hhalf htie hfull hc).1

/-- Where another value is as near, the magnitude bits are even. -/
theorem roundMag_even_of_tie (p : Nat) (emin : Int) {num den : Nat} (hd : den ≠ 0) {c : ℚ}
    (hc : IsFloat (p + 2) emin c)
    (htie' : |(num : ℚ) / den - magValue (p + 1) emin (roundMag (p + 2) emin num den)| = |(num : ℚ) / den - c|)
    (hne : c ≠ magValue (p + 1) emin (roundMag (p + 2) emin num den)) : Even (roundMag (p + 2) emin num den) := by
  by_cases hn : num = 0
  · simp [hn, roundMag]
  · obtain ⟨j, n, hmag, hhalf, htie, hfull, hlt⟩ := roundMag_cases (p + 1) emin hn hd
    obtain ⟨hle, hj⟩ := significand_bounds hhalf hfull hlt
    rw [hmag, magValue_eq (p + 1) emin hle hj] at htie' hne
    have hn2 := (nearest_of_half_unit hhalf htie hfull hc).2 htie' hne
    rw [hmag, pow_succ]
    exact ((even_two.mul_left _).mul_left j).add hn2

end Sys2Proof.Machine
end

section
/-!
PROOFS. Rounding to binary32 (43_estimator R201): the value of a pattern by its sign and magnitude, and that `round32` and
`roundDyadic32` round their exact value as `roundsTo32` says.
-/

namespace Sys2Proof.Machine

/-! ### Sign and value -/

/-- ±v. -/
def withSign (neg : Bool) (v : ℚ) : ℚ := if neg then -v else v

theorem withSign_mul (a b : Bool) (v w : ℚ) : withSign (a != b) (v * w) = withSign a v * withSign b w := by
  cases a <;> cases b <;> simp [withSign]

theorem withSign_div (a b : Bool) (v w : ℚ) : withSign (a != b) (v / w) = withSign a v / withSign b w := by
  cases a <;> cases b <;> simp [withSign, neg_div, div_neg]

theorem withSign_not (a : Bool) (v : ℚ) : withSign (!a) v = -withSign a v := by
  cases a <;> simp [withSign]

theorem abs_withSign (a : Bool) {v : ℚ} (hv : 0 ≤ v) : |withSign a v| = v := by
  cases a <;> simp [withSign, abs_of_nonneg hv]

theorem withSign_eq_zero {a : Bool} {v : ℚ} : withSign a v = 0 ↔ v = 0 := by
  cases a <;> simp [withSign]

theorem withSign_neg_iff {a : Bool} {v : ℚ} (hv : 0 ≤ v) (h0 : v ≠ 0) : withSign a v < 0 ↔ a = true := by
  cases a <;> simp [withSign, hv, hv.lt_of_ne' h0]

theorem withSign_withSign (a : Bool) (v : ℚ) : withSign a (withSign a v) = v := by
  cases a <;> simp [withSign]

theorem abs_withSign_sub (a : Bool) (v c : ℚ) : |withSign a v - c| = |v - withSign a c| := by
  cases a
  · rfl
  · rw [← abs_neg]
    simp [withSign, add_comm]

theorem IsFloat.withSign {prec : Nat} {emin : Int} {v : ℚ} (a : Bool) (h : IsFloat prec emin v) :
    IsFloat prec emin (withSign a v) := by
  cases a
  · exact h
  · exact h.neg

theorem IsNearest.withSign {prec : Nat} {emin : Int} {v q : ℚ} (a : Bool) (h : IsNearest prec emin v q) :
    IsNearest prec emin (withSign a v) (withSign a q) := by
  cases a
  · exact h
  · exact h.neg

/-! ### The value of a pattern -/

theorem pattern_cases (x : F32) : isNaN x = true ∨ magOf x = inf32 ∨ isFinite32 x = true := by
  simp only [isNaN, isFinite32, decide_eq_true_eq]
  omega

theorem isFinite32_iff {x : F32} : isFinite32 x = true ↔ magOf x < inf32 := decide_eq_true_iff

theorem isNaN_of_isFinite32 {x : F32} (h : isFinite32 x = true) : isNaN x = false := by
  simp only [isNaN, isFinite32, decide_eq_true_eq, decide_eq_false_iff_not] at *
  omega

theorem isFinite32_of_inf {x : F32} (h : magOf x = inf32) : isFinite32 x = false := by simp [isFinite32, h]

theorem isFinite32_of_zero {x : F32} (h : magOf x = 0) : isFinite32 x = true := by simp [isFinite32, h, inf32]

/-- A finite pattern taken apart. -/
theorem unpack32_finite {x : F32} (h : isFinite32 x = true) :
    ∃ m e, unpack32 x = .fin (signOf x) m e ∧ (m : ℚ) * 2 ^ e = magValue 23 (-149) (magOf x) ∧ m < 2 ^ 24 ∧
      -149 ≤ e ∧ e ≤ 104 := by
  rw [isFinite32_iff] at h
  have hex : magOf x / 2 ^ 23 < 255 := Nat.div_lt_of_lt_mul h
  simp only [unpack32, magValue, if_neg h.ne, if_neg h.le.not_gt]
  split
  · exact ⟨_, _, rfl, rfl, by omega, by omega, by omega⟩
  · refine ⟨_, _, rfl, ?_, by omega, by omega, by omega⟩
    congr 2
    omega

theorem ratValue_of_finite {x : F32} (h : isFinite32 x = true) :
    ratValue x = some (withSign (signOf x) (magValue 23 (-149) (magOf x))) := by
  obtain ⟨m, e, hx, hv, -⟩ := unpack32_finite h
  simp only [ratValue, hx, ← hv, withSign]
  split <;> simp

theorem ratValue_eq_some {x : F32} {a : ℚ} (h : ratValue x = some a) :
    isFinite32 x = true ∧ a = withSign (signOf x) (magValue 23 (-149) (magOf x)) := by
  rcases pattern_cases x with hn | hi | hf
  · simp [ratValue, unpack32_nan hn] at h
  · simp [ratValue, unpack32_inf hi] at h
  · exact ⟨hf, Option.some.inj (h.symm.trans (ratValue_of_finite hf))⟩

theorem magValue_eq_zero {mag : Nat} : magValue 23 (-149) mag = 0 ↔ mag = 0 := by
  rw [← magValue_zero 23 (-149), (magValue_strictMono 23 (-149)).injective.eq_iff]

theorem magValue_inf32 : magValue 23 (-149) inf32 = 2 ^ 128 := by norm_num [magValue, inf32]

theorem magValue_largest : magValue 23 (-149) (inf32 - 1) = 2 ^ 128 - 2 ^ 104 := by norm_num [magValue, inf32]

theorem abs_lt_of_ratValue {x : F32} {a : ℚ} (h : ratValue x = some a) : |a| < 2 ^ 128 - 2 ^ 103 := by
  obtain ⟨hf, rfl⟩ := ratValue_eq_some h
  rw [abs_withSign _ (magValue_nonneg _ _ _)]
  calc magValue 23 (-149) (magOf x) ≤ magValue 23 (-149) (inf32 - 1) :=
        (magValue_strictMono 23 (-149)).monotone (Nat.le_sub_one_of_lt (isFinite32_iff.mp hf))
    _ < 2 ^ 128 - 2 ^ 103 := by rw [magValue_largest]; norm_num

theorem ratValue_zero {x : F32} (h : magOf x = 0) : ratValue x = some 0 := by
  rw [ratValue_of_finite (isFinite32_of_zero h), h, magValue_zero, withSign_eq_zero.mpr rfl]

theorem isFloat_of_ratValue {x : F32} {a : ℚ} (h : ratValue x = some a) : IsFloat 24 (-149) a := by
  obtain ⟨-, rfl⟩ := ratValue_eq_some h
  exact (isFloat_magValue 23 (-149) _).withSign _

/-- A value that is not 0 has one pattern. -/
theorem eq_of_ratValue_eq {x y : F32} {a : ℚ} (hx : ratValue x = some a) (hy : ratValue y = some a)
    (hs : a = 0 → signOf x = signOf y) : x = y := by
  obtain ⟨-, hxa⟩ := ratValue_eq_some hx
  obtain ⟨-, hya⟩ := ratValue_eq_some hy
  have hsign : signOf x = signOf y := by
    by_cases ha : a = 0
    · exact hs ha
    · rw [Bool.eq_iff_iff, ← withSign_neg_iff (magValue_nonneg 23 (-149) (magOf x)), ← hxa, hya,
        withSign_neg_iff (magValue_nonneg _ _ _)]
      · exact fun h => ha (by rw [hya, h, withSign_eq_zero])
      · exact fun h => ha (by rw [hxa, h, withSign_eq_zero])
  refine eq_of_parts ((magValue_strictMono 23 (-149)).injective ?_) hsign
  rw [← abs_withSign (signOf x) (magValue_nonneg _ _ _), ← hxa, hya, abs_withSign _ (magValue_nonneg _ _ _)]

/-- The order of patterns is the order of their values. -/
theorem orderKey_le_of_ratValue_le {x y : F32} {a b : ℚ} (hx : ratValue x = some a) (hy : ratValue y = some b)
    (hle : a ≤ b) : orderKey x ≤ orderKey y := by
  obtain ⟨-, rfl⟩ := ratValue_eq_some hx
  obtain ⟨-, rfl⟩ := ratValue_eq_some hy
  have mono := magValue_strictMono 23 (-149)
  have hx0 := magValue_nonneg 23 (-149) (magOf x)
  have hy0 := magValue_nonneg 23 (-149) (magOf y)
  revert hle
  unfold orderKey
  cases signOf x <;> cases signOf y <;> simp only [withSign, if_true, if_false, Bool.false_eq_true] <;> intro hle
  · exact Int.ofNat_le.mpr (mono.le_iff_le.mp hle)
  · have h1 : magOf x = 0 := magValue_eq_zero.mp (le_antisymm (hle.trans (neg_nonpos.mpr hy0)) hx0)
    have h2 : magOf y = 0 := magValue_eq_zero.mp (le_antisymm (neg_nonneg.mp (hx0.trans hle)) hy0)
    simp [h1, h2]
  · exact (neg_nonpos.mpr (Int.natCast_nonneg _)).trans (Int.natCast_nonneg _)
  · exact neg_le_neg (Int.ofNat_le.mpr (mono.le_iff_le.mp (neg_le_neg_iff.mp hle)))

/-! ### Rounding -/

/-- `r` is `v` rounded: by R201's rule, and nearest among all values of the format where it is finite. -/
def Rounds (v : ℚ) (r : F32) : Prop :=
  roundsTo32 v r ∧ ∀ q, ratValue r = some q → IsNearest 24 (-149) v q

theorem round32_parts (neg : Bool) (num den : Nat) :
    magOf (round32 neg num den) = min (roundMag 24 (-149) num den) inf32 ∧ signOf (round32 neg num den) = neg := by
  have h : min (roundMag 24 (-149) num den) inf32 < 2 ^ 31 := (Nat.min_le_right _ _).trans_lt (by decide)
  exact ⟨magOf_pack32 _ _ h, signOf_pack32 _ _ h⟩

theorem round32_zero (neg : Bool) (den : Nat) : round32 neg 0 den = pack32 neg 0 := rfl

theorem getLsbD_zero_of_even {x : F32} (h : Even (magOf x)) : x.getLsbD 0 = false := by
  have hmod : magOf x % 2 = 0 := Nat.even_iff.mp h
  rw [BitVec.getLsbD, Nat.testBit_zero, decide_eq_false_iff_not]
  unfold magOf at hmod
  omega

theorem isFloat_overflow : IsFloat 24 (-149) (2 ^ 128) := magValue_inf32 ▸ isFloat_magValue 23 (-149) inf32

theorem isFloat_largest : IsFloat 24 (-149) (2 ^ 128 - 2 ^ 104) :=
  magValue_largest ▸ isFloat_magValue 23 (-149) (inf32 - 1)

theorem IsNearest.lt_overflow {v q : ℚ} (h : IsNearest 24 (-149) v q) (hv : v < 2 ^ 128 - 2 ^ 103) : q < 2 ^ 128 := by
  by_contra! hq
  have hn := (neg_abs_le (v - q)).trans' (neg_le_neg (h.2 _ isFloat_largest))
  rcases abs_cases (v - (2 ^ 128 - 2 ^ 104)) with ⟨habs, -⟩ | ⟨habs, -⟩ <;> rw [habs] at hn <;> linarith

/-- From half a unit past the largest finite value on, that value is at most as near as 2^128. -/
theorem IsNearest.tie_at_overflow {v q : ℚ} (h : IsNearest 24 (-149) v q) (hv : 2 ^ 128 - 2 ^ 103 ≤ v)
    (hq : q ≤ 2 ^ 128 - 2 ^ 104) : |v - q| = |v - 2 ^ 128| ∧ q = 2 ^ 128 - 2 ^ 104 := by
  have hn := h.2 _ isFloat_overflow
  have hqv : |v - q| = v - q := abs_of_nonneg (by linarith)
  rw [hqv] at hn ⊢
  rcases abs_cases (v - 2 ^ 128) with ⟨habs, -⟩ | ⟨habs, -⟩ <;> rw [habs] at hn ⊢ <;> constructor <;> linarith

/-- Overflow: from half a unit past the largest finite value on the magnitude passes every finite one. -/
theorem inf32_le_roundMag {num den : Nat} (hd : den ≠ 0) :
    inf32 ≤ roundMag 24 (-149) num den ↔ 2 ^ 128 - 2 ^ 103 ≤ (num : ℚ) / den := by
  have hnear := roundMag_isNearest 23 (-149) num hd
  have htie := @roundMag_even_of_tie 22 (-149) num den hd
  have mono := magValue_strictMono 23 (-149)
  set mag := roundMag 24 (-149) num den
  constructor
  · intro hle
    by_contra! hlt
    have hq : (2 : ℚ) ^ 128 ≤ magValue 23 (-149) mag := magValue_inf32 ▸ mono.monotone hle
    exact absurd (hnear.lt_overflow hlt) hq.not_gt
  · intro hle
    by_contra! hlt
    have hq : magValue 23 (-149) mag ≤ 2 ^ 128 - 2 ^ 104 :=
      magValue_largest ▸ mono.monotone (Nat.le_sub_one_of_lt hlt)
    obtain ⟨heq, hlargest⟩ := hnear.tie_at_overflow hle hq
    have hmag : mag = inf32 - 1 := mono.injective (hlargest.trans magValue_largest.symm)
    have heven : Even mag := htie isFloat_overflow heq (by rw [← magValue_inf32]; exact mono.injective.ne hlt.ne')
    rw [hmag] at heven
    exact absurd heven (by decide)

theorem round32_rounds (neg : Bool) (num : Nat) {den : Nat} (hd : den ≠ 0) :
    Rounds (withSign neg (num / den)) (round32 neg num den) := by
  obtain ⟨hmag, hsign⟩ := round32_parts neg num den
  have hv : (0 : ℚ) ≤ num / den := by positivity
  have finite_iff : isFinite32 (round32 neg num den) = true ↔ roundMag 24 (-149) num den < inf32 := by
    rw [isFinite32, hmag, decide_eq_true_eq]
    omega
  have value {q : ℚ} (hq : ratValue (round32 neg num den) = some q) :
      magOf (round32 neg num den) = roundMag 24 (-149) num den ∧
        q = withSign neg (magValue 23 (-149) (roundMag 24 (-149) num den)) := by
    obtain ⟨hf, rfl⟩ := ratValue_eq_some hq
    have : magOf (round32 neg num den) = roundMag 24 (-149) num den := by
      rw [hmag, min_eq_left (finite_iff.mp hf).le]
    rw [hsign, this]
    exact ⟨rfl, rfl⟩
  have nearest : IsNearest 24 (-149) (withSign neg (num / den))
      (withSign neg (magValue 23 (-149) (roundMag 24 (-149) num den))) :=
    (roundMag_isNearest 23 (-149) num hd).withSign neg
  refine ⟨⟨?_, ?_, ?_, ?_⟩, fun q hq => (value hq).2 ▸ nearest⟩
  · rw [isNaN, hmag, decide_eq_false_iff_not]
    omega
  · rw [abs_withSign neg hv, ← inf32_le_roundMag hd, ← not_lt, ← finite_iff, Bool.not_eq_true]
  · intro h0
    rw [hsign, withSign_neg_iff hv fun h => h0 (withSign_eq_zero.mpr h)]
  · intro q z c hq hz
    obtain ⟨hmageq, rfl⟩ := value hq
    have hc := isFloat_of_ratValue hz
    refine ⟨nearest.2 c hc, fun htie hne => getLsbD_zero_of_even ?_⟩
    rw [hmageq]
    rw [abs_withSign_sub, abs_withSign_sub, withSign_withSign] at htie
    refine roundMag_even_of_tie 22 (-149) hd (hc.withSign neg) htie fun h => hne ?_
    rw [← withSign_withSign neg c]
    exact congrArg _ h

theorem zpow_eq_toNat_div (e : Int) : (2 : ℚ) ^ e = if 0 ≤ e then 2 ^ e.toNat else 1 / 2 ^ (-e).toNat := by
  split
  · rw [zpow_toNat ‹_›]
  · rw [zpow_toNat (by omega), zpow_neg, one_div, inv_inv]

theorem roundDyadic32_rounds (neg : Bool) (m : Nat) (e : Int) :
    Rounds (withSign neg (m * 2 ^ e)) (roundDyadic32 neg m e) := by
  rw [roundDyadic32, zpow_eq_toNat_div]
  split
  · simpa using round32_rounds neg (m * 2 ^ e.toNat) one_ne_zero
  · simpa [div_eq_mul_inv] using round32_rounds neg m (pow_ne_zero (-e).toNat two_ne_zero)

theorem signOf_roundDyadic32 (neg : Bool) (m : Nat) (e : Int) : signOf (roundDyadic32 neg m e) = neg := by
  unfold roundDyadic32
  split <;> exact (round32_parts _ _ _).2

/-- Below the overflow the rounded value is finite, and nearest. -/
theorem Rounds.exists_nearest {v : ℚ} {r : F32} (h : Rounds v r) (hv : |v| < 2 ^ 128 - 2 ^ 103) :
    ∃ q, ratValue r = some q ∧ IsNearest 24 (-149) v q := by
  obtain ⟨⟨-, hfin, -⟩, hnear⟩ := h
  have hf : isFinite32 r = true := by
    rw [← Bool.not_eq_false, hfin]
    exact not_le.mpr hv
  exact ⟨_, ratValue_of_finite hf, hnear _ (ratValue_of_finite hf)⟩

/-- A value of the format is rounded to itself. -/
theorem Rounds.ratValue_eq {v : ℚ} {r : F32} (h : Rounds v r) (hv : |v| < 2 ^ 128 - 2 ^ 103) (hf : IsFloat 24 (-149) v) :
    ratValue r = some v := by
  obtain ⟨q, hq, hnear⟩ := h.exists_nearest hv
  rw [hq, hnear.eq_of_isFloat hf]

end Sys2Proof.Machine
end

section
/-!
PROOFS. The arithmetic of 43_estimator R201 operation by operation: finite operands are rounded once from the exact
result, and the special operands give what the rule says.
-/

namespace Sys2Proof.Machine

/-! ### Sums, differences, products and quotients of finite values -/

section

variable {x y : F32} {a b : ℚ}

theorem unpack32_of_ratValue (h : ratValue x = some a) :
    ∃ m e, unpack32 x = .fin (signOf x) m e ∧ a = withSign (signOf x) (m * 2 ^ e) ∧ m < 2 ^ 24 ∧ -149 ≤ e ∧ e ≤ 104 := by
  obtain ⟨hf, rfl⟩ := ratValue_eq_some h
  obtain ⟨m, e, hx, hv, hbounds⟩ := unpack32_finite hf
  exact ⟨m, e, hx, by rw [hv], hbounds⟩

theorem scaledInt_value (neg : Bool) (m : Nat) {e lo : Int} (h : lo ≤ e) :
    (scaledInt neg m e lo : ℚ) * 2 ^ lo = withSign neg (m * 2 ^ e) := by
  have hmag : ((m * 2 ^ (e - lo).toNat : Nat) : ℚ) * 2 ^ lo = m * 2 ^ e := by
    push_cast
    rw [zpow_toNat (by omega), mul_assoc, ← zpow_add₀ (by norm_num), sub_add_cancel]
  cases neg
  · simpa [scaledInt, withSign] using hmag
  · simpa [scaledInt, withSign] using hmag

theorem withSign_natAbs (n : Int) : withSign (n < 0) n.natAbs = n := by
  rw [Nat.cast_natAbs, withSign]
  rcases lt_or_ge n 0 with h | h
  · simp [h, abs_of_neg h]
  · simp [h.not_gt, abs_of_nonneg h]

theorem rounds_zero (neg : Bool) : Rounds 0 (pack32 neg 0) := by
  have h := round32_rounds neg 0 one_ne_zero
  rwa [Nat.cast_zero, zero_div, withSign_eq_zero.mpr rfl, round32_zero] at h

theorem fadd_rounds (hx : ratValue x = some a) (hy : ratValue y = some b) :
    Rounds (a + b) (fadd x y) ∧ (a + b = 0 → signOf (fadd x y) = (signOf x && signOf y)) := by
  obtain ⟨m, e, hux, ha, -⟩ := unpack32_of_ratValue hx
  obtain ⟨k, f, huy, hb, -⟩ := unpack32_of_ratValue hy
  simp only [fadd, hux, huy]
  set lo := min e f
  set sum := scaledInt (signOf x) m e lo + scaledInt (signOf y) k f lo with hsum
  have hexact : (sum : ℚ) * 2 ^ lo = a + b := by
    rw [ha, hb, hsum, ← scaledInt_value _ m (min_le_left e f), ← scaledInt_value _ k (min_le_right e f)]
    push_cast
    ring
  have hzero : a + b = 0 ↔ sum = 0 := by
    rw [← hexact, mul_eq_zero_iff_right (zpow_ne_zero _ two_ne_zero), Int.cast_eq_zero]
  split
  next h =>
    rw [hzero.mpr h]
    exact ⟨rounds_zero _, fun _ => signOf_pack32 _ _ (by decide)⟩
  next h =>
    refine ⟨?_, fun h0 => absurd (hzero.mp h0) h⟩
    rw [← hexact, ← withSign_natAbs sum]
    have := roundDyadic32_rounds (sum < 0) sum.natAbs lo
    convert this using 1
    unfold withSign
    split <;> ring

theorem ratValue_fneg (hy : ratValue y = some b) : ratValue (fneg y) = some (-b) := by
  obtain ⟨hf, rfl⟩ := ratValue_eq_some hy
  obtain ⟨hmag, hsign⟩ := fneg_parts y
  have hf' : isFinite32 (fneg y) = true := by rwa [isFinite32_iff, hmag, ← isFinite32_iff]
  rw [ratValue_of_finite hf', hmag, hsign, withSign_not]

theorem fsub_rounds (hx : ratValue x = some a) (hy : ratValue y = some b) :
    Rounds (a - b) (fsub x y) ∧ (a - b = 0 → signOf (fsub x y) = (signOf x && !signOf y)) := by
  rw [sub_eq_add_neg, fsub, ← (fneg_parts y).2]
  exact fadd_rounds hx (ratValue_fneg hy)

theorem fmul_rounds (hx : ratValue x = some a) (hy : ratValue y = some b) :
    Rounds (a * b) (fmul x y) ∧ signOf (fmul x y) = (signOf x != signOf y) := by
  obtain ⟨m, e, hux, rfl, -⟩ := unpack32_of_ratValue hx
  obtain ⟨k, f, huy, rfl, -⟩ := unpack32_of_ratValue hy
  simp only [fmul, hux, huy]
  refine ⟨?_, signOf_roundDyadic32 _ _ _⟩
  have := roundDyadic32_rounds (signOf x != signOf y) (m * k) (e + f)
  rwa [zpow_add₀ (by norm_num), Nat.cast_mul, mul_mul_mul_comm, withSign_mul] at this

theorem fdiv_rounds (hx : ratValue x = some a) (hy : ratValue y = some b) (hb : b ≠ 0) :
    Rounds (a / b) (fdiv x y) ∧ signOf (fdiv x y) = (signOf x != signOf y) := by
  obtain ⟨m, e, hux, rfl, -⟩ := unpack32_of_ratValue hx
  obtain ⟨k, f, huy, rfl, -⟩ := unpack32_of_ratValue hy
  have hk : k ≠ 0 := by
    rintro rfl
    exact hb (withSign_eq_zero.mpr (by simp))
  simp only [fdiv, hux, huy, if_neg hk]
  rw [← withSign_div, mul_div_mul_comm, ← zpow_sub₀ (by norm_num)]
  split
  next h =>
    refine ⟨?_, (round32_parts _ _ _).2⟩
    have := round32_rounds (signOf x != signOf y) (m * 2 ^ (e - f).toNat) hk
    push_cast at this
    rwa [zpow_toNat (by omega), mul_div_right_comm] at this
  next h =>
    refine ⟨?_, (round32_parts _ _ _).2⟩
    have := round32_rounds (signOf x != signOf y) m (mul_ne_zero hk (pow_ne_zero (f - e).toNat two_ne_zero))
    have hpow : (2 : ℚ) ^ (e - f) = (2 ^ (f - e).toNat)⁻¹ := by rw [zpow_toNat (by omega), ← zpow_neg, neg_sub]
    rwa [Nat.cast_mul, Nat.cast_pow, Nat.cast_ofNat, ← div_div, div_eq_mul_inv _ ((2 : ℚ) ^ _), ← hpow] at this

end

/-! ### The root -/

/-- The integer root, found from bit `bits - 1` down. -/
theorem isqrtFrom_spec (v bits r : Nat) (hle : r * r ≤ v) (hlt : v < (r + 2 ^ bits) * (r + 2 ^ bits)) :
    isqrtFrom v bits r * isqrtFrom v bits r ≤ v ∧ v < (isqrtFrom v bits r + 1) * (isqrtFrom v bits r + 1) := by
  induction bits generalizing r with
  | zero => exact ⟨hle, hlt⟩
  | succ b ih =>
    rw [isqrtFrom]
    split
    next h => exact ih _ h (by rwa [add_assoc, ← two_mul, ← pow_succ'])
    next h => exact ih _ hle (not_le.mp h)

/-- Where `v` is no farther from `q` than from `c`, and `w` the other way round, the midpoint of `q` and `c` lies between
`v` and `w`. -/
theorem abs_sub_midpoint_le {K : Type*} [Field K] [LinearOrder K] [IsStrictOrderedRing K] {v w q c : K}
    (hv : |v - q| ≤ |v - c|) (hw : |w - c| ≤ |w - q|) (hne : q ≠ c) : |v - (q + c) / 2| ≤ |v - w| := by
  rw [← sq_le_sq] at *
  set mid := (q + c) / 2 with hmid
  have hv' : (c - q) * (v - mid) ≤ 0 := by rw [hmid]; linarith
  have hw' : 0 ≤ (c - q) * (w - mid) := by rw [hmid]; linarith
  have hpos : 0 < (c - q) ^ 2 := by
    have : c - q ≠ 0 := sub_ne_zero.mpr hne.symm
    positivity
  have hopposite : (v - mid) * (w - mid) ≤ 0 := by
    by_contra! h
    have := mul_pos hpos h
    have := mul_nonpos_of_nonpos_of_nonneg hv' hw'
    linarith
  nlinarith [sq_nonneg (w - mid)]

theorem isqrtFrom_range {v : Nat} (hlow : 2 ^ 60 ≤ v) (hhigh : v < 2 ^ 85) :
    let r := isqrtFrom v 48 0
    r * r ≤ v ∧ v < (r + 1) * (r + 1) ∧ 2 ^ 30 ≤ r ∧ r < 2 ^ 43 := by
  intro r
  obtain ⟨h1, h2⟩ : r * r ≤ v ∧ v < (r + 1) * (r + 1) := isqrtFrom_spec v 48 0 (Nat.zero_le _) (by omega)
  refine ⟨h1, h2, ?_, ?_⟩ <;> by_contra! h <;> nlinarith

/-- The integer root with its last bit is the real root, or an odd number less than one away from it. -/
theorem sqrt_of_integer_root {v r : Nat} (f : Int) (h1 : r * r ≤ v) (h2 : v < (r + 1) * (r + 1)) :
    let n := 2 * r + if r * r = v then 0 else 1
    √((v : ℝ) * (2 ^ f) ^ 2) = n * 2 ^ (f - 1) ∨
      (Odd n ∧ |√((v : ℝ) * (2 ^ f) ^ 2) - n * 2 ^ (f - 1)| < 2 ^ (f - 1)) := by
  intro n
  have hunit : (2 : ℝ) ^ f = 2 * 2 ^ (f - 1) := by rw [← zpow_one_add₀ (by norm_num), add_sub_cancel]
  rw [Real.sqrt_mul (Nat.cast_nonneg v), Real.sqrt_sq (by positivity)]
  by_cases h : r * r = v
  · left
    simp only [n, if_pos h]
    rw [← h, Nat.cast_mul, Real.sqrt_mul_self (Nat.cast_nonneg r), hunit]
    push_cast
    ring
  · right
    simp only [n, if_neg h]
    have hlow : (r : ℝ) < √(v : ℝ) := by
      rw [Real.lt_sqrt (Nat.cast_nonneg r), sq]
      exact_mod_cast h1.lt_of_ne h
    have hhigh : √(v : ℝ) < r + 1 := by
      rw [Real.sqrt_lt' (by positivity), sq]
      exact_mod_cast h2
    have hu : (0 : ℝ) < 2 ^ (f - 1) := by positivity
    refine ⟨⟨r, rfl⟩, ?_⟩
    rw [hunit, abs_lt]
    push_cast
    constructor <;> nlinarith

/-- The root is the rounding of a dyadic that stands for it: the real root, or less than one odd unit away. -/
theorem exists_fsqrt_eq_round {x : F32} {a : ℚ} (hx : ratValue x = some a) (ha : 0 < a) :
    ∃ (n : Nat) (e : Int), fsqrt x = roundDyadic32 false n e ∧ 2 ^ 31 ≤ n ∧ n < 2 ^ 45 ∧ -106 ≤ e ∧ e ≤ 21 ∧
      (√(a : ℝ) = n * 2 ^ e ∨ (Odd n ∧ |√(a : ℝ) - n * 2 ^ e| < 2 ^ e)) := by
  obtain ⟨m, e, hux, hval, hm, he1, he2⟩ := unpack32_of_ratValue hx
  have hm0 : m ≠ 0 := by
    rintro rfl
    exact ha.ne' (by rw [hval, withSign_eq_zero, Nat.cast_zero, zero_mul])
  have hs : signOf x = false := by
    rw [← Bool.not_eq_true, ← withSign_neg_iff (v := m * 2 ^ e) (by positivity) (by positivity), ← hval]
    exact ha.not_gt
  rw [hs] at hval
  simp only [fsqrt, hux, hs, if_neg hm0, Bool.false_eq_true, if_false]
  set k : Nat := if e % 2 = 0 then 60 else 61 with hk
  have hkcases : (k = 60 ∧ e % 2 = 0) ∨ (k = 61 ∧ e % 2 = 1) := by
    rw [hk]
    split <;> omega
  set v := m * 2 ^ k with hv
  have hvlow : 2 ^ 60 ≤ v := calc
    2 ^ 60 ≤ 1 * 2 ^ k := by rw [one_mul]; exact Nat.pow_le_pow_right (by omega) (by omega)
    _ ≤ v := Nat.mul_le_mul_right _ (by omega)
  have hvhigh : v < 2 ^ 85 := calc
    v < 2 ^ 24 * 2 ^ k := Nat.mul_lt_mul_of_pos_right hm (by positivity)
    _ ≤ 2 ^ 24 * 2 ^ 61 := Nat.mul_le_mul_left _ (Nat.pow_le_pow_right (by omega) (by omega))
  obtain ⟨h1, h2, hrlow, hrhigh⟩ := isqrtFrom_range hvlow hvhigh
  set f : Int := (e - k) / 2 with hf
  have hef : e - k = 2 * f := by omega
  have hsq : (a : ℝ) = v * (2 ^ f) ^ 2 := by
    rw [hval, hv, ← zpow_natCast, ← zpow_mul, mul_comm f]
    push_cast
    rw [← hef, mul_assoc, ← zpow_natCast, ← zpow_add₀ (by norm_num), add_sub_cancel]
    simp [withSign]
  refine ⟨_, f - 1, rfl, by omega, by split <;> omega, by omega, by omega, ?_⟩
  rw [hsq]
  exact sqrt_of_integer_root f h1 h2

theorem IsNearest.cast_le {prec : Nat} {emin : Int} {v q c : ℚ} (h : IsNearest prec emin v q) (hc : IsFloat prec emin c) :
    |(v : ℝ) - q| ≤ |(v : ℝ) - c| := by
  exact_mod_cast h.2 c hc

section

variable {n : Nat} {e : Int} {q c : ℚ} {w : ℝ}

/-- No midpoint of two values of the format, both from 2^31 units on, lies within a unit of an odd number of units. -/
theorem IsNearest.nearest_of_odd_of_ge (h : IsNearest 24 (-149) (n * 2 ^ e) q) (hodd : Odd n)
    (hw : |w - n * 2 ^ e| < 2 ^ e) (hq : 2 ^ 23 * 2 ^ (e + 8) ≤ q) (hc : IsFloat 24 (-149) c)
    (hle : 2 ^ 23 * 2 ^ (e + 8) ≤ c) : |w - q| ≤ |w - c| := by
  by_contra! hlt
  obtain ⟨i, hi⟩ := h.1.exists_eq_mul (p := 23) (hq.trans (le_abs_self q))
  obtain ⟨j, hj⟩ := hc.exists_eq_mul (p := 23) (hle.trans (le_abs_self c))
  have hmid := abs_sub_midpoint_le (h.cast_le hc) hlt.le fun heq => hlt.ne' (by rw [heq])
  have hunits : ((n * 2 ^ e : ℚ) : ℝ) - (q + c) / 2 = ((n - 128 * (i + j) : Int) : ℝ) * 2 ^ e := by
    rw [hi, hj, zpow_add₀ (by norm_num)]
    push_cast
    ring
  have hupos : (0 : ℝ) < 2 ^ e := by positivity
  rw [hunits, abs_mul, abs_of_pos hupos, abs_sub_comm] at hmid
  have hlt1 : |((n - 128 * (i + j) : Int) : ℝ)| * 2 ^ e < 1 * 2 ^ e := by
    rw [one_mul]
    exact hmid.trans_lt (by push_cast; exact hw)
  have hint : |((n - 128 * (i + j) : Int) : ℝ)| < 1 := lt_of_mul_lt_mul_right hlt1 hupos.le
  have hzero : (n : Int) - 128 * (i + j) = 0 := Int.abs_lt_one_iff.mp (by exact_mod_cast hint)
  obtain ⟨k, rfl⟩ := hodd
  omega

/-- A value nearest to an odd number of units is nearest to everything less than a unit away from it: finer values
than these lie below 2^31 units. -/
theorem IsNearest.nearest_of_odd (h : IsNearest 24 (-149) (n * 2 ^ e) q) (hn : 2 ^ 31 ≤ n) (hodd : Odd n)
    (he : -157 ≤ e) (hw : |w - n * 2 ^ e| < 2 ^ e) (hc : IsFloat 24 (-149) c) : |w - q| ≤ |w - c| := by
  set low : ℚ := 2 ^ 23 * 2 ^ (e + 8) with hlow
  have hlowfloat : IsFloat 24 (-149) low := ⟨2 ^ 23, e + 8, by rw [hlow]; norm_num, by norm_num, by omega⟩
  have hlow' : low = 2 ^ 31 * 2 ^ e := by
    rw [hlow, zpow_add₀ (by norm_num)]
    ring
  have hlown : low ≤ n * 2 ^ e := by
    rw [hlow']
    have : (2 : ℚ) ^ 31 ≤ n := by exact_mod_cast hn
    gcongr
  have hq : low ≤ q := h.le_of_le hlowfloat hlown
  rcases le_or_gt low c with hle | hlt
  · exact h.nearest_of_odd_of_ge hodd hw hq hc hle
  · have hlowr : (low : ℝ) ≤ w := by
      obtain ⟨k, rfl⟩ := hodd
      have h1 : (2 : ℝ) ^ 31 + 1 ≤ (2 * k + 1 : Nat) := by
        have : 2 ^ 31 + 1 ≤ 2 * k + 1 := by omega
        exact_mod_cast this
      have hupos : (0 : ℝ) < 2 ^ e := by positivity
      rw [hlow']
      push_cast at *
      nlinarith [(abs_lt.mp hw).1]
    have hcr : (c : ℝ) < low := by exact_mod_cast hlt
    refine (h.nearest_of_odd_of_ge hodd hw hq hlowfloat le_rfl).trans ?_
    rw [abs_of_nonneg (by linarith), abs_of_nonneg (by linarith)]
    linarith

end

theorem fsqrt_nearest {x : F32} {a : ℚ} (hx : ratValue x = some a) (ha : 0 < a) :
    ∃ r, ratValue (fsqrt x) = some r ∧ 0 < r ∧
      ∀ z c, ratValue z = some c → |√(a : ℝ) - (r : ℝ)| ≤ |√(a : ℝ) - (c : ℝ)| := by
  obtain ⟨n, e, hsqrt, hnlow, hnhigh, helow, hehigh, hroot⟩ := exists_fsqrt_eq_round hx ha
  have hupos : (0 : ℚ) < 2 ^ e := by positivity
  have hbound : (n : ℚ) * 2 ^ e < 2 ^ 128 - 2 ^ 103 := calc
    (n : ℚ) * 2 ^ e ≤ 2 ^ 45 * 2 ^ (21 : Int) := by
      gcongr
      · exact_mod_cast hnhigh.le
      · norm_num
    _ < 2 ^ 128 - 2 ^ 103 := by norm_num
  have hrounds : Rounds (n * 2 ^ e) (roundDyadic32 false n e) := roundDyadic32_rounds false n e
  obtain ⟨q, hq, hnear⟩ := hrounds.exists_nearest (by rwa [abs_of_nonneg (by positivity)])
  have hlow : IsFloat 24 (-149) (1 * 2 ^ e) := ⟨1, e, by norm_num, by norm_num, by omega⟩
  have hpos : 0 < q := by
    refine lt_of_lt_of_le (by positivity) (hnear.le_of_le hlow ?_)
    have : (1 : ℚ) ≤ n := by exact_mod_cast (by omega : 1 ≤ n)
    exact mul_le_mul_of_nonneg_right this hupos.le
  refine ⟨q, hsqrt ▸ hq, hpos, fun z c hz => ?_⟩
  rcases hroot with hexact | ⟨hodd, hclose⟩
  · have := hnear.cast_le (isFloat_of_ratValue hz)
    push_cast at this
    rwa [hexact]
  · exact hnear.nearest_of_odd hnlow hodd (by omega) hclose (isFloat_of_ratValue hz)

end Sys2Proof.Machine
end

section
/-!
PROOFS. Special operands of the arithmetic (43_estimator R201), and the statements about arithmetic and conversion
(R201, R202).
-/

namespace Sys2Proof.Machine

/-! ### Parts of the special patterns -/

section

variable {x y : F32}

theorem magOf_pack32_inf (b : Bool) : magOf (pack32 b inf32) = inf32 := magOf_pack32 _ _ (by decide)

theorem signOf_pack32_inf (b : Bool) : signOf (pack32 b inf32) = b := signOf_pack32 _ _ (by decide)

theorem magOf_pack32_zero (b : Bool) : magOf (pack32 b 0) = 0 := magOf_pack32 _ _ (by decide)

theorem signOf_pack32_zero (b : Bool) : signOf (pack32 b 0) = b := signOf_pack32 _ _ (by decide)

theorem pack32_signOf_inf (hx : magOf x = inf32) : pack32 (signOf x) inf32 = x := by rw [← hx, pack32_parts]

theorem pack32_signOf_zero (hx : magOf x = 0) : pack32 (signOf x) 0 = x := by rw [← hx, pack32_parts]

theorem isNaN_fneg (x : F32) : isNaN (fneg x) = isNaN x := by rw [isNaN, (fneg_parts x).1, isNaN]

theorem isFinite32_fneg (x : F32) : isFinite32 (fneg x) = isFinite32 x := by
  rw [isFinite32, (fneg_parts x).1, isFinite32]

theorem unpack32_finite_ne_zero (hx : isFinite32 x = true) (h0 : magOf x ≠ 0) :
    ∃ m e, unpack32 x = .fin (signOf x) m e ∧ m ≠ 0 := by
  obtain ⟨m, e, hux, hv, -⟩ := unpack32_finite hx
  refine ⟨m, e, hux, ?_⟩
  rintro rfl
  exact h0 (magValue_eq_zero.mp (by rw [← hv, Nat.cast_zero, zero_mul]))

theorem inf_or_finite (hx : isNaN x = false) : magOf x = inf32 ∨ isFinite32 x = true :=
  (pattern_cases x).resolve_left (by rw [hx]; exact Bool.false_ne_true)

/-! ### NaN operands -/

theorem fadd_nan (h : isNaN x = true ∨ isNaN y = true) : fadd x y = qNaN := by
  rcases h with h | h <;> simp only [fadd, unpack32_nan h]
  cases unpack32 x <;> rfl

theorem fsub_nan (h : isNaN x = true ∨ isNaN y = true) : fsub x y = qNaN := by
  rw [← isNaN_fneg y] at h
  exact fadd_nan h

theorem fmul_nan (h : isNaN x = true ∨ isNaN y = true) : fmul x y = qNaN := by
  rcases h with h | h <;> simp only [fmul, unpack32_nan h]
  cases unpack32 x <;> rfl

theorem fdiv_nan (h : isNaN x = true ∨ isNaN y = true) : fdiv x y = qNaN := by
  rcases h with h | h <;> simp only [fdiv, unpack32_nan h]
  cases unpack32 x <;> rfl

theorem fsqrt_nan (h : isNaN x = true) : fsqrt x = qNaN := by simp only [fsqrt, unpack32_nan h]

/-! ### Infinities -/

theorem fadd_inf (hx : magOf x = inf32) (hy : isFinite32 y = true ∨ magOf y = inf32 ∧ signOf y = signOf x) :
    fadd x y = x ∧ fadd y x = x := by
  rcases hy with hy | ⟨hy, hs⟩
  · obtain ⟨m, e, huy, -⟩ := unpack32_finite hy
    simp only [fadd, unpack32_inf hx, huy, pack32_signOf_inf hx, and_self]
  · simp only [fadd, unpack32_inf hx, unpack32_inf hy, hs, if_true, pack32_signOf_inf hx, and_self]

theorem fadd_opposite_inf (hx : magOf x = inf32) (hy : magOf y = inf32) (hs : signOf x ≠ signOf y) :
    fadd x y = qNaN := by
  simp only [fadd, unpack32_inf hx, unpack32_inf hy, if_neg hs]

theorem fmul_inf (hx : magOf x = inf32) (hy : isNaN y = false) (h0 : magOf y ≠ 0) :
    fmul x y = pack32 (signOf x != signOf y) inf32 ∧ fmul y x = pack32 (signOf x != signOf y) inf32 := by
  rw [bne_comm]
  rcases inf_or_finite hy with hy | hy
  · simp only [fmul, unpack32_inf hx, unpack32_inf hy, bne_comm, and_self]
  · obtain ⟨m, e, huy, hm⟩ := unpack32_finite_ne_zero hy h0
    simp only [fmul, unpack32_inf hx, huy, if_neg hm, bne_comm, and_self]

theorem fmul_inf_zero (hx : magOf x = inf32) (hy : magOf y = 0) : fmul x y = qNaN ∧ fmul y x = qNaN := by
  simp only [fmul, unpack32_inf hx, unpack32_zero hy, if_true, and_self]

theorem fdiv_inf_inf (hx : magOf x = inf32) (hy : magOf y = inf32) : fdiv x y = qNaN := by
  simp only [fdiv, unpack32_inf hx, unpack32_inf hy]

theorem fdiv_inf_finite (hx : magOf x = inf32) (hy : isFinite32 y = true) :
    fdiv x y = pack32 (signOf x != signOf y) inf32 := by
  obtain ⟨m, e, huy, -⟩ := unpack32_finite hy
  simp only [fdiv, unpack32_inf hx, huy]

theorem fdiv_finite_inf (hx : isFinite32 x = true) (hy : magOf y = inf32) :
    fdiv x y = pack32 (signOf x != signOf y) 0 := by
  obtain ⟨m, e, hux, -⟩ := unpack32_finite hx
  simp only [fdiv, unpack32_inf hy, hux]

/-! ### Zeros and signs -/

theorem fdiv_by_zero (hx : isNaN x = false) (h0 : magOf x ≠ 0) (hy : magOf y = 0) :
    fdiv x y = pack32 (signOf x != signOf y) inf32 := by
  rcases inf_or_finite hx with hx | hx
  · exact fdiv_inf_finite hx (isFinite32_of_zero hy)
  · obtain ⟨m, e, hux, hm⟩ := unpack32_finite_ne_zero hx h0
    simp only [fdiv, hux, unpack32_zero hy, if_true, if_neg hm]

theorem fdiv_zero_zero (hx : magOf x = 0) (hy : magOf y = 0) : fdiv x y = qNaN := by
  simp only [fdiv, unpack32_zero hx, unpack32_zero hy, if_true]

theorem fdiv_zero (hx : magOf x = 0) (hy : isNaN y = false) (h0 : magOf y ≠ 0) :
    fdiv x y = pack32 (signOf x != signOf y) 0 := by
  rcases inf_or_finite hy with hy | hy
  · exact fdiv_finite_inf (isFinite32_of_zero hx) hy
  · obtain ⟨k, f, huy, hk⟩ := unpack32_finite_ne_zero hy h0
    simp only [fdiv, unpack32_zero hx, huy, if_neg hk, Nat.zero_mul, round32_zero, ite_self]

/-- A quotient that is no NaN has the sign of both operands. -/
theorem signOf_fdiv (h : isNaN (fdiv x y) = false) : signOf (fdiv x y) = (signOf x != signOf y) := by
  have not_qNaN (he : fdiv x y = qNaN) : False := by
    rw [he, isNaN_qNaN] at h
    exact absurd h (by decide)
  rcases pattern_cases x with hx | hx | hx
  · exact (not_qNaN (fdiv_nan (Or.inl hx))).elim
  · rcases pattern_cases y with hy | hy | hy
    · exact (not_qNaN (fdiv_nan (Or.inr hy))).elim
    · exact (not_qNaN (fdiv_inf_inf hx hy)).elim
    · rw [fdiv_inf_finite hx hy, signOf_pack32_inf]
  · rcases pattern_cases y with hy | hy | hy
    · exact (not_qNaN (fdiv_nan (Or.inr hy))).elim
    · rw [fdiv_finite_inf hx hy, signOf_pack32_zero]
    · by_cases hy0 : magOf y = 0
      · by_cases hx0 : magOf x = 0
        · exact (not_qNaN (fdiv_zero_zero hx0 hy0)).elim
        · rw [fdiv_by_zero (isNaN_of_isFinite32 hx) hx0 hy0, signOf_pack32_inf]
      · exact (fdiv_rounds (ratValue_of_finite hx) (ratValue_of_finite hy)
          fun h => hy0 (magValue_eq_zero.mp (withSign_eq_zero.mp h))).2

theorem fsqrt_zero (hx : magOf x = 0) : fsqrt x = x := by simp only [fsqrt, unpack32_zero hx, if_true]

theorem fsqrt_negative (hs : signOf x = true) (h0 : magOf x ≠ 0) : fsqrt x = qNaN := by
  rcases pattern_cases x with hx | hx | hx
  · exact fsqrt_nan hx
  · simp only [fsqrt, unpack32_inf hx, hs, if_true]
  · obtain ⟨m, e, hux, hm⟩ := unpack32_finite_ne_zero hx h0
    simp only [fsqrt, hux, if_neg hm, hs, if_true]

end

/-! ### The statements about the arithmetic (R201, R202) -/

/-- Settles O37: one rounding per operation for finite operands, and the special operands case by case. -/
theorem arithmeticRoundsToNearest : Obligations.ArithmeticRoundsToNearest := by
  refine ⟨fun x y a b hx hy => ?finite, fun x a => fsqrt_nearest, fun x => fsqrt_zero, by decide, fun x y hx hy => ?inf,
    fun x y hx h0 hy => ?byZero⟩
  case finite =>
    obtain ⟨hadd, haddz⟩ := fadd_rounds hx hy
    obtain ⟨hsub, hsubz⟩ := fsub_rounds hx hy
    obtain ⟨hmul, hmuls⟩ := fmul_rounds hx hy
    exact ⟨hadd.1, hsub.1, hmul.1, fun hb => (fdiv_rounds hx hy hb).1.1, haddz, hsubz, hmuls,
      fun hb => (fdiv_rounds hx hy hb).2⟩
  case inf =>
    obtain ⟨hnegmag, hnegsign⟩ := fneg_parts y
    obtain ⟨hnegmagx, hnegsignx⟩ := fneg_parts x
    refine ⟨fun h => fadd_inf hx ?_, fun h => ⟨(fadd_inf hx ?_).1, (fadd_inf (hnegmagx.trans hx) ?_).2⟩, fun h0 => ?_,
      fun hyf => ?_⟩
    · exact (inf_or_finite hy).elim (fun hi => h.imp_right fun hs => ⟨hi, hs⟩) Or.inl
    · refine (inf_or_finite hy).elim (fun hi => ?_) fun hf => Or.inl (by rwa [isFinite32_fneg])
      refine Or.inr ⟨hnegmag.trans hi, ?_⟩
      have := h.resolve_left (by rw [isFinite32_of_inf hi]; exact Bool.false_ne_true)
      rw [hnegsign, Bool.not_eq]
      exact this
    · refine (inf_or_finite hy).elim (fun hi => ?_) Or.inl
      refine Or.inr ⟨hi, ?_⟩
      have := h.resolve_left (by rw [isFinite32_of_inf hi]; exact Bool.false_ne_true)
      rw [hnegsignx, Bool.eq_not]
      exact this
    · obtain ⟨hxy, hyx⟩ := fmul_inf hx hy h0
      rw [hxy, hyx]
      exact ⟨magOf_pack32_inf _, signOf_pack32_inf _, rfl⟩
    · rw [fdiv_inf_finite hx hyf, fdiv_finite_inf hyf hx, bne_comm (a := signOf y)]
      exact ⟨magOf_pack32_inf _, signOf_pack32_inf _, magOf_pack32_zero _, signOf_pack32_zero _⟩
  case byZero =>
    rw [fdiv_by_zero (isNaN_of_isFinite32 hx) h0 hy]
    exact ⟨magOf_pack32_inf _, signOf_pack32_inf _⟩

/-- Settles O38: each invalid operation is the datapath's NaN, and only a NaN takes a free pattern. -/
theorem invalidOperationsGiveNaN : Obligations.InvalidOperationsGiveNaN := by
  intro x y
  have nan {z : F32} (h : z = qNaN) : isNaN z = true := h ▸ isNaN_qNaN
  refine ⟨fun h => ⟨nan (fadd_nan h), nan (fsub_nan h), nan (fmul_nan h), nan (fdiv_nan h)⟩,
    fun h => nan (fsqrt_nan h),
    fun hx hy => ⟨nan (fdiv_inf_inf hx hy), fun hs => nan (fadd_opposite_inf hx hy hs),
      fun hs => nan (fadd_opposite_inf hx ((fneg_parts y).1.trans hy) ?subtract)⟩,
    fun hx hy => ⟨nan (fmul_inf_zero hx hy).1, nan (fmul_inf_zero hx hy).2⟩,
    fun hx hy => nan (fdiv_zero_zero hx hy), fun hs h0 => nan (fsqrt_negative hs h0), by decide, fun n => ?free⟩
  case subtract =>
    rw [(fneg_parts y).2, hs]
    exact (Bool.not_ne_self _).symm
  case free =>
    rcases freeIfNaN_cases n x with ⟨hx, heq⟩ | ⟨hx, hfree⟩
    · exact ⟨congrArg isNaN heq, fun _ => heq⟩
    · exact ⟨hfree.trans hx.symm, fun h => absurd (hx.symm.trans h) (by decide)⟩

theorem withSign_msb_natAbs (r : BitVec 16) : withSign r.msb r.toInt.natAbs = r.toInt := by
  rw [BitVec.msb_eq_toInt, withSign_natAbs]

theorem natAbs_toInt_le (r : BitVec 16) : r.toInt.natAbs ≤ 2 ^ 15 := by
  have := r.toInt_lt
  have := r.le_toInt
  omega

theorem ratValue_i2f (r : BitVec 16) : ratValue (i2f r) = some (r.toInt : ℚ) := by
  have hr := natAbs_toInt_le r
  have habs : |r.toInt| ≤ 2 ^ 15 := by rw [Int.abs_eq_natAbs]; exact_mod_cast hr
  have hrounds : Rounds r.toInt (i2f r) := by
    have := round32_rounds r.msb r.toInt.natAbs one_ne_zero
    rwa [Nat.cast_one, div_one, withSign_msb_natAbs] at this
  refine hrounds.ratValue_eq ?_ ⟨r.toInt, 0, by norm_num, by omega, by omega⟩
  calc |(r.toInt : ℚ)| ≤ 2 ^ 15 := by exact_mod_cast habs
    _ < 2 ^ 128 - 2 ^ 103 := by norm_num

/-- Settles O35: an i16 value has few enough bits to be rounded to itself. -/
theorem integerConversionIsExact : Obligations.IntegerConversionIsExact :=
  ⟨ratValue_i2f, by decide⟩

end Sys2Proof.Machine
end

section
/-!
PROOFS. The scaler (43_estimator R204 to R206): both evaluations as roundings of one quotient, the range of what they
give, and why the second rounding changes nothing at tiers 0 and 1.
-/

namespace Sys2Proof.Machine

/-! ### Rounding within a range -/

section

variable {prec : Nat} {emin : Int} {v q c : ℚ}

theorem IsNearest.abs_le_of_abs_le (h : IsNearest prec emin v q) (hc : IsFloat prec emin c) (hle : |v| ≤ c) : |q| ≤ c := by
  obtain ⟨h1, h2⟩ := abs_le.mp hle
  exact abs_le.mpr ⟨h.le_of_le hc.neg h1, h.ge_of_ge hc h2⟩

theorem IsNearest.le_abs_of_le_abs (h : IsNearest prec emin v q) (hc : IsFloat prec emin c) (hle : c ≤ |v|) : c ≤ |q| := by
  rcases le_abs'.mp hle with hv | hv
  · have := h.ge_of_ge hc.neg hv
    exact le_abs'.mpr (Or.inl this)
  · exact le_abs'.mpr (Or.inr (h.le_of_le hc hv))

end

/-! ### The two evaluations (R205) -/

/-- A divisor literal within the bounds of R204's tables. -/
def Literal.InRange (d : Literal) : Prop :=
  d.den ≠ 0 ∧ 1049 / 64 ≤ (d.num : ℚ) / d.den ∧ (d.num : ℚ) / d.den ≤ 16384

theorem inRange_of_table {t : Tier} {d : Literal} (h : d = accDiv t ∨ d = gyrDiv t) : d.InRange := by
  rcases h with rfl | rfl <;> cases t <;> norm_num [Literal.InRange, accDiv, gyrDiv]

section

variable {prec : Nat} {emin : Int} {d : Literal} {D v : ℚ}

/-- Every format in use has the bounds of a literal's range, and of the quotients. -/
theorem isFloat_of_24 (hprec : 24 ≤ prec) (hemin : emin ≤ -14) (n : Int) (e : Int) (hn : |n| < 2 ^ 24 := by norm_num)
    (he : -14 ≤ e := by norm_num) : IsFloat prec emin (n * 2 ^ e) :=
  ⟨n, e, rfl, hn.trans_le (pow_le_pow_right₀ (by norm_num) hprec), by omega⟩

/-- A literal rounded to a format keeps its bounds. -/
theorem IsNearest.divisor_bounds (h : IsNearest prec emin ((d.num : ℚ) / d.den) D) (hprec : 24 ≤ prec)
    (hemin : emin ≤ -14) (hd : d.InRange) : 1049 / 64 ≤ D ∧ D ≤ 16384 := by
  have hlow := isFloat_of_24 hprec hemin 1049 (-6)
  have hhigh := isFloat_of_24 hprec hemin 16384 0
  norm_num at hlow hhigh
  exact ⟨h.le_of_le hlow hd.2.1, h.ge_of_ge hhigh hd.2.2⟩

end

theorem scaleB32_rounds (r : BitVec 16) {d : Literal} (hd : d.InRange) :
    ∃ D, IsNearest 24 (-149) ((d.num : ℚ) / d.den) D ∧ Rounds (r.toInt / D) (scaleB32 r d) := by
  have hrounds : Rounds ((d.num : ℚ) / d.den) (round32 false d.num d.den) := round32_rounds false d.num hd.1
  obtain ⟨D, hD, hnear⟩ := hrounds.exists_nearest (by
    rw [abs_of_nonneg (by positivity)]
    exact hd.2.2.trans_lt (by norm_num))
  obtain ⟨hlow, -⟩ := hnear.divisor_bounds (by norm_num) (by norm_num) hd
  exact ⟨D, hnear, (fdiv_rounds (ratValue_i2f r) hD (by linarith)).1⟩

theorem unpack64_value (mag : Nat) : ((unpack64 mag).1 : ℚ) * 2 ^ (unpack64 mag).2 = magValue 52 (-1074) mag := by
  simp only [unpack64, magValue]
  split
  · rfl
  · congr 2
    omega

theorem overDyadic_value (r m : Nat) (e : Int) :
    ((overDyadic r m e).1 : ℚ) / (overDyadic r m e).2 = r / (m * 2 ^ e) ∧ (m ≠ 0 → (overDyadic r m e).2 ≠ 0) := by
  rw [overDyadic, zpow_eq_toNat_div]
  split
  · exact ⟨by push_cast; rfl, fun hm => mul_ne_zero hm (by positivity)⟩
  · refine ⟨?_, id⟩
    push_cast
    rw [mul_one_div, div_div_eq_mul_div]

/-- The binary64 value of a divisor literal. -/
def divisor64 (d : Literal) : ℚ := magValue 52 (-1074) (round64 d.num d.den)

theorem divisor64_isNearest {d : Literal} (hd : d.InRange) :
    IsNearest 53 (-1074) ((d.num : ℚ) / d.den) (divisor64 d) :=
  roundMag_isNearest 52 (-1074) d.num hd.1

/-- B64_THEN_B32 is two roundings of the quotient by the binary64 value of the literal. -/
theorem scaleB64_rounds (r : BitVec 16) {d : Literal} (hd : d.InRange) :
    ∃ w, IsNearest 53 (-1074) (r.toInt / divisor64 d) w ∧ Rounds w (scaleB64 r d) := by
  obtain ⟨hlow, -⟩ := (divisor64_isNearest hd).divisor_bounds (by norm_num) (by norm_num) hd
  have hdiv := unpack64_value (round64 d.num d.den)
  rw [← divisor64] at hdiv
  obtain ⟨hquot, hden⟩ := overDyadic_value r.toInt.natAbs (unpack64 (round64 d.num d.den)).1
    (unpack64 (round64 d.num d.den)).2
  set quot := overDyadic r.toInt.natAbs (unpack64 (round64 d.num d.den)).1 (unpack64 (round64 d.num d.den)).2 with hq
  have hm : (unpack64 (round64 d.num d.den)).1 ≠ 0 := fun h => by
    rw [h, Nat.cast_zero, zero_mul] at hdiv
    linarith
  have hnear := (roundMag_isNearest 52 (-1074) quot.1 (hden hm)).withSign r.msb
  have hr : withSign r.msb ((quot.1 : ℚ) / quot.2) = r.toInt / divisor64 d := by
    rw [hquot, hdiv, ← withSign_msb_natAbs r]
    cases r.msb <;> simp [withSign, neg_div]
  rw [hr] at hnear
  refine ⟨withSign r.msb (magValue 52 (-1074) (round64 quot.1 quot.2)), hnear, ?_⟩
  rw [← unpack64_value]
  exact roundDyadic32_rounds r.msb _ _

/-! ### The range of the results (R206) -/

/-- The quotient of a raw value by a divisor in range. -/
theorem abs_quotient_bounds (r : BitVec 16) {D : ℚ} (hlow : 1049 / 64 ≤ D) (hhigh : D ≤ 16384) :
    |(r.toInt : ℚ) / D| ≤ 3999 / 2 ∧ (r ≠ 0 → 1 / 16384 ≤ |(r.toInt : ℚ) / D|) := by
  have hD : 0 < D := by linarith
  have habs : |(r.toInt : ℚ)| ≤ 32768 := by
    have := natAbs_toInt_le r
    rw [← Int.cast_abs, Int.abs_eq_natAbs]
    exact_mod_cast this
  rw [abs_div, abs_of_pos hD, div_le_iff₀ hD, le_div_iff₀ hD]
  refine ⟨by linarith, fun hr => ?_⟩
  have hne : r.toInt ≠ 0 := fun h => hr (BitVec.toInt_inj.mp h)
  have : (1 : ℚ) ≤ |(r.toInt : ℚ)| := by exact_mod_cast Int.one_le_abs hne
  linarith

/-- Every scaled value is finite and below 2000, and not 0 unless the raw value is. -/
theorem scale_bounds (ev : ScaleEval) (r : BitVec 16) {d : Literal} (hd : d.InRange) :
    ∃ q, ratValue (scale ev r d) = some q ∧ |q| ≤ 3999 / 2 ∧ (r ≠ 0 → 1 / 16384 ≤ |q|) := by
  have high {prec : Nat} {emin : Int} (hprec : 24 ≤ prec) (hemin : emin ≤ -14) :=
    isFloat_of_24 hprec hemin 3999 (-1)
  have low {prec : Nat} {emin : Int} (hprec : 24 ≤ prec) (hemin : emin ≤ -14) := isFloat_of_24 hprec hemin 1 (-14)
  norm_num at high low
  have once {v : ℚ} (hrounds : Rounds v (scale ev r d)) (hv : |v| ≤ 3999 / 2) (hv0 : r ≠ 0 → 1 / 16384 ≤ |v|) :
      ∃ q, ratValue (scale ev r d) = some q ∧ |q| ≤ 3999 / 2 ∧ (r ≠ 0 → 1 / 16384 ≤ |q|) := by
    obtain ⟨q, hq, hnear⟩ := hrounds.exists_nearest (hv.trans_lt (by norm_num))
    exact ⟨q, hq, hnear.abs_le_of_abs_le (high (by norm_num) (by norm_num)) hv,
      fun hr => hnear.le_abs_of_le_abs (low (by norm_num) (by norm_num)) (hv0 hr)⟩
  cases ev
  case b32 =>
    obtain ⟨D, hD, hrounds⟩ := scaleB32_rounds r hd
    obtain ⟨hlow, hhigh⟩ := hD.divisor_bounds (by norm_num) (by norm_num) hd
    obtain ⟨hv, hv0⟩ := abs_quotient_bounds r hlow hhigh
    exact once hrounds hv hv0
  case b64ThenB32 =>
    obtain ⟨w, hw, hrounds⟩ := scaleB64_rounds r hd
    obtain ⟨hlow, hhigh⟩ := (divisor64_isNearest hd).divisor_bounds (by norm_num) (by norm_num) hd
    obtain ⟨hv, hv0⟩ := abs_quotient_bounds r hlow hhigh
    exact once hrounds (hw.abs_le_of_abs_le (high (by norm_num) (by norm_num)) hv)
      fun hr => hw.le_abs_of_le_abs (low (by norm_num) (by norm_num)) (hv0 hr)

theorem scale_zero (ev : ScaleEval) (t : Tier) :
    scale ev 0 (accDiv t) = 0x00000000 ∧ scale ev 0 (gyrDiv t) = 0x00000000 := by
  cases ev <;> cases t <;> decide

theorem scale_ne_minusZero (ev : ScaleEval) (r : BitVec 16) {t : Tier} {d : Literal} (hd : d = accDiv t ∨ d = gyrDiv t) :
    scale ev r d ≠ 0x80000000 := by
  intro h
  by_cases hr : r = 0
  · obtain ⟨ha, hg⟩ := scale_zero ev t
    subst hr
    rcases hd with rfl | rfl
    · exact absurd (ha.symm.trans h) (by decide)
    · exact absurd (hg.symm.trans h) (by decide)
  · obtain ⟨q, hq, -, hpos⟩ := scale_bounds ev r (inRange_of_table hd)
    rw [h, ratValue_zero (by decide), Option.some_inj] at hq
    have := hpos hr
    rw [← hq, abs_zero] at this
    norm_num at this

/-! ### Divisors that are powers of 2 -/

/-- Where the literal and the quotient have few enough bits both evaluations are exact. -/
theorem ratValue_scale_of_isFloat (ev : ScaleEval) (r : BitVec 16) {d : Literal} (hd : d.InRange)
    (hlit : ∀ prec emin, 24 ≤ prec → emin ≤ -14 → IsFloat prec emin ((d.num : ℚ) / d.den))
    (hquot : ∀ prec emin, 24 ≤ prec → emin ≤ -14 → IsFloat prec emin (r.toInt / ((d.num : ℚ) / d.den))) :
    ratValue (scale ev r d) = some (r.toInt / ((d.num : ℚ) / d.den)) := by
  have hbound : |r.toInt / ((d.num : ℚ) / d.den)| < 2 ^ 128 - 2 ^ 103 :=
    (abs_quotient_bounds r hd.2.1 hd.2.2).1.trans_lt (by norm_num)
  have h24 := hquot 24 (-149) (by norm_num) (by norm_num)
  cases ev
  case b32 =>
    obtain ⟨D, hD, hrounds⟩ := scaleB32_rounds r hd
    rw [hD.eq_of_isFloat (hlit 24 (-149) (by norm_num) (by norm_num))] at hrounds
    exact hrounds.ratValue_eq hbound h24
  case b64ThenB32 =>
    obtain ⟨w, hw, hrounds⟩ := scaleB64_rounds r hd
    rw [(divisor64_isNearest hd).eq_of_isFloat (hlit 53 (-1074) (by norm_num) (by norm_num))] at hw
    rw [hw.eq_of_isFloat (hquot 53 (-1074) (by norm_num) (by norm_num))] at hrounds
    exact hrounds.ratValue_eq hbound h24

/-- The exponent of an accelerometer divisor (R204). -/
def accBits (t : Tier) : Nat :=
  match t with
  | .t0 => 14
  | .t1 => 13
  | .t2 => 12
  | .t3 => 11

theorem ratValue_scale_acc (ev : ScaleEval) (t : Tier) (r : BitVec 16) :
    ratValue (scale ev r (accDiv t)) = some ((r.toInt : ℚ) / 2 ^ accBits t) := by
  have hlit : ((accDiv t).num : ℚ) / (accDiv t).den = 2 ^ accBits t := by
    cases t <;> norm_num [accDiv, accBits]
  have hbits : accBits t ≤ 14 := by cases t <;> decide
  have habs : |r.toInt| < 2 ^ 24 := by
    have := natAbs_toInt_le r
    rw [Int.abs_eq_natAbs]
    omega
  rw [← hlit]
  refine ratValue_scale_of_isFloat ev r (inRange_of_table (Or.inl rfl)) (fun prec emin hp he => ?_)
    fun prec emin hp he => ?_
  · have := isFloat_of_24 hp he 1 (accBits t) (by norm_num) (by omega)
    rwa [Int.cast_one, one_mul, zpow_natCast, ← hlit] at this
  · have := isFloat_of_24 hp he r.toInt (-accBits t) habs (by omega)
    rwa [zpow_neg, zpow_natCast, ← div_eq_mul_inv, ← hlit] at this

/-! ### The second rounding at tiers 0 and 1 -/

/-- A value up to 501 is at most 2^-45 away from its rounding to binary64. -/
theorem IsNearest.abs_sub_le_of_le {v w : ℚ} (h : IsNearest 53 (-1074) v w) (hv : |v| ≤ 501) : |v - w| ≤ 1 / 2 ^ 45 := by
  have hround := abs_sub_round (v * 2 ^ 44)
  have hdist : |v - (round (v * 2 ^ 44) : ℚ) * 2 ^ (-44 : Int)| ≤ 1 / 2 ^ 45 := by
    rw [show v - (round (v * 2 ^ 44) : ℚ) * 2 ^ (-44 : Int) = (v * 2 ^ 44 - round (v * 2 ^ 44)) / 2 ^ 44 by norm_num; ring,
      abs_div, div_le_iff₀ (by positivity)]
    norm_num at hround ⊢
    exact hround
  refine (h.2 _ ⟨_, -44, rfl, ?_, by norm_num⟩).trans hdist
  have : |(round (v * 2 ^ 44) : ℚ)| < 2 ^ 53 := by
    have := abs_sub_abs_le_abs_sub (round (v * 2 ^ 44) : ℚ) (v * 2 ^ 44)
    rw [abs_sub_comm, abs_mul, abs_of_pos (by positivity : (0 : ℚ) < 2 ^ 44)] at this
    norm_num at *
    linarith
  exact_mod_cast this

/-- A quotient by 131 lies on a grid of 2^-32 where it is this near to it, and is then an integer. -/
theorem dvd_of_near_grid {a k : Int} (h : |(a : ℚ) / 131 - k / 2 ^ 32| ≤ 1 / 2 ^ 45) : 131 ∣ a := by
  have hscaled : (a : ℚ) / 131 - k / 2 ^ 32 = ((a * 2 ^ 32 - 131 * k : Int) : ℚ) / (131 * 2 ^ 32) := by
    push_cast
    field_simp
    ring
  rw [hscaled, abs_div, abs_of_pos (by norm_num : (0 : ℚ) < 131 * 2 ^ 32), div_le_iff₀ (by norm_num)] at h
  have hlt : |((a * 2 ^ 32 - 131 * k : Int) : ℚ)| < 1 := h.trans_lt (by norm_num)
  have hzero : a * 2 ^ 32 - 131 * k = 0 := Int.abs_lt_one_iff.mp (by exact_mod_cast hlt)
  omega

/-- From 1/256 on, every rounded value is a multiple of 2^-31. -/
theorem IsNearest.exists_eq_mul {v q : ℚ} (h : IsNearest 24 (-149) v q) (hv : 1 / 256 ≤ |v|) :
    ∃ k : Int, q = k * (2 : ℚ) ^ (-31 : Int) := by
  have hlow : IsFloat 24 (-149) (1 / 256) := ⟨1, -8, by norm_num, by norm_num, by norm_num⟩
  refine h.1.exists_eq_mul (p := 23) ((h.le_abs_of_le_abs hlow hv).trans' ?_)
  norm_num

/-- No quotient by 131 lies as near to a midpoint of two binary32 values as a binary64 rounding moves it, unless it is
an integer, so rounding to binary64 first changes nothing. -/
theorem nearest_eq_of_double_rounding {a : Int} {v w q₁ q₂ : ℚ} (ha : a ≠ 0) (hle : |a| ≤ 2 ^ 16) (hv : v = a / 131)
    (h₁ : IsNearest 24 (-149) v q₁) (hw : IsNearest 53 (-1074) v w) (h₂ : IsNearest 24 (-149) w q₂) : q₁ = q₂ := by
  by_contra hne
  have habs : |v| = |(a : ℚ)| / 131 := by rw [hv, abs_div]; norm_num
  have hahigh : |(a : ℚ)| ≤ 2 ^ 16 := by exact_mod_cast hle
  have halow : (1 : ℚ) ≤ |(a : ℚ)| := by exact_mod_cast Int.one_le_abs ha
  have hvlow : 1 / 256 ≤ |v| := by rw [habs]; linarith
  have hwlow : 1 / 256 ≤ |w| := hw.le_abs_of_le_abs ⟨1, -8, by norm_num, by norm_num, by norm_num⟩ hvlow
  obtain ⟨i, hi⟩ := h₁.exists_eq_mul hvlow
  obtain ⟨j, hj⟩ := h₂.exists_eq_mul hwlow
  have hclose := hw.abs_sub_le_of_le (by rw [habs]; norm_num at *; linarith)
  have hmid := (abs_sub_midpoint_le (h₁.2 _ h₂.1) (h₂.2 _ h₁.1) hne).trans hclose
  have hgrid : (q₁ + q₂) / 2 = ((i + j : Int) : ℚ) / 2 ^ 32 := by
    rw [hi, hj]
    push_cast
    norm_num
    ring
  rw [hgrid, hv] at hmid
  obtain ⟨n, rfl⟩ := dvd_of_near_grid hmid
  have hvn : v = n * 2 ^ (0 : Int) := by rw [hv]; push_cast; norm_num
  have isFloat_v {prec : Nat} {emin : Int} (hprec : 24 ≤ prec) (hemin : emin ≤ -14) : IsFloat prec emin v :=
    hvn ▸ isFloat_of_24 hprec hemin n 0 (by rw [abs_mul] at hle; norm_num at *; linarith)
  obtain rfl := hw.eq_of_isFloat (isFloat_v (by norm_num) (by norm_num))
  exact hne ((h₁.eq_of_isFloat (isFloat_v (by norm_num) (by norm_num))).trans
    (h₂.eq_of_isFloat (isFloat_v (by norm_num) (by norm_num))).symm)

theorem scale_gyr_eq {t : Tier} (ht : t = .t0 ∨ t = .t1) (r : BitVec 16) :
    scale .b32 r (gyrDiv t) = scale .b64ThenB32 r (gyrDiv t) := by
  by_cases hr : r = 0
  · rw [hr, (scale_zero .b32 t).2, (scale_zero .b64ThenB32 t).2]
  have hd := inRange_of_table (t := t) (Or.inr rfl)
  have hlit {prec : Nat} {emin : Int} (hprec : 24 ≤ prec) (hemin : emin ≤ -14) :
      IsFloat prec emin (((gyrDiv t).num : ℚ) / (gyrDiv t).den) := by
    rcases ht with rfl | rfl
    · simpa [gyrDiv] using isFloat_of_24 hprec hemin 131 0
    · have := isFloat_of_24 hprec hemin 131 (-1)
      norm_num [gyrDiv] at this ⊢
      exact this
  obtain ⟨D, hD, h32⟩ := scaleB32_rounds r hd
  rw [hD.eq_of_isFloat (hlit (by norm_num) (by norm_num))] at h32
  obtain ⟨w, hw, h64⟩ := scaleB64_rounds r hd
  rw [(divisor64_isNearest hd).eq_of_isFloat (hlit (by norm_num) (by norm_num))] at hw
  obtain ⟨q₁, hq₁, -, hpos⟩ := scale_bounds .b32 r hd
  obtain ⟨q₂, hq₂, -⟩ := scale_bounds .b64ThenB32 r hd
  have habs := natAbs_toInt_le r
  have hne : r.toInt ≠ 0 := fun h => hr (BitVec.toInt_inj.mp h)
  obtain ⟨a, ha, hle, hv⟩ : ∃ a : Int, a ≠ 0 ∧ |a| ≤ 2 ^ 16 ∧
      (r.toInt : ℚ) / ((gyrDiv t).num / (gyrDiv t).den) = a / 131 := by
    rcases ht with rfl | rfl
    · exact ⟨r.toInt, hne, by rw [Int.abs_eq_natAbs]; omega, by norm_num [gyrDiv]⟩
    · exact ⟨2 * r.toInt, by omega, by rw [Int.abs_eq_natAbs]; omega, by norm_num [gyrDiv]; ring⟩
  have heq := nearest_eq_of_double_rounding ha hle hv (h32.2 _ hq₁) hw (h64.2 _ hq₂)
  refine eq_of_ratValue_eq hq₁ (heq ▸ hq₂) fun h0 => ?_
  have := hpos hr
  rw [h0, abs_zero] at this
  norm_num at this

/-! ### The statement about the scaler -/

/-- The binary32 patterns of the gyroscope's divisors (R204). -/
def gyrPattern (t : Tier) : F32 :=
  match t with
  | .t0 => 0x43030000
  | .t1 => 0x42830000
  | .t2 => 0x42033333
  | .t3 => 0x41833333

theorem scale_b32_gyr (r : BitVec 16) (t : Tier) : scale .b32 r (gyrDiv t) = fdiv (i2f r) (gyrPattern t) := by
  have : round32 false (gyrDiv t).num (gyrDiv t).den = gyrPattern t := by cases t <;> decide
  rw [scale, scaleB32, this]

/-- The binary64 values of the gyroscope's divisors (R204). -/
def gyrDivisor (t : Tier) : ℚ :=
  match t with
  | .t0 => 131
  | .t1 => 131 / 2
  | .t2 => 0x10666666666666 / 2 ^ 47
  | .t3 => 0x10666666666666 / 2 ^ 48

theorem divisor64_gyr (t : Tier) : divisor64 (gyrDiv t) = gyrDivisor t := by
  have bits : round64 131 1 = 0x4060600000000000 ∧ round64 655 10 = 0x4050600000000000 ∧
      round64 328 10 = 0x4040666666666666 ∧ round64 164 10 = 0x4030666666666666 := by decide
  obtain ⟨h0, h1, h2, h3⟩ := bits
  cases t <;> simp only [divisor64, gyrDiv, gyrDivisor, h0, h1, h2, h3] <;> norm_num [magValue]

/-- Settles O36: both evaluations round the quotient, and its range, its exact cases and its midpoints decide the rest. -/
theorem scalerFacts : Obligations.ScalerFacts := by
  intro ev t r
  refine ⟨?accel, fun d hd => ⟨?zero, scale_ne_minusZero ev r hd, ?bound⟩, ?pattern, ?twice, fun ht => scale_gyr_eq ht r⟩
  case accel =>
    rw [ratValue_scale_acc]
    cases t <;> rfl
  case zero =>
    obtain ⟨ha, hg⟩ := scale_zero ev t
    rcases hd with rfl | rfl
    · exact ha
    · exact hg
  case bound =>
    obtain ⟨q, hq, hle, -⟩ := scale_bounds ev r (inRange_of_table hd)
    exact ⟨q, hq, hle.trans_lt (by norm_num)⟩
  case pattern =>
    rw [scale_b32_gyr]
    cases t <;> rfl
  case twice =>
    obtain ⟨w, hw, hrounds⟩ := scaleB64_rounds r (inRange_of_table (t := t) (Or.inr rfl))
    rw [divisor64_gyr] at hw
    refine ⟨w, hw.1, fun c hc => ?_, hrounds.1⟩
    have := hw.2 c hc
    cases t <;> exact this

end Sys2Proof.Machine
end

section
/-!
PROOFS. The commands of 43_estimator: SCALE_ACCEL, SCALE_GYRO and ESTIMATE step by step (R211 to R213, R215), the angle
function (R203), the yaw gate (R216), and the cases of R217.
-/

namespace Sys2Proof.Machine

/-! ### The two SCALE commands (R211 to R213) -/

theorem exec_compute {op : HostCmd} {s : State} (hrun : s.running op) (hp : phaseOf op .compute = true) (hop : op ≠ .init)
    (hq : s.seq.phase = .compute) : exec op.instr s = .next (s.atPhase .done) := by
  rw [exec_of_running hrun.1 hrun.2]
  exact ((commandBody_compute hp hq).resolve_right fun h => hop h.1).2

/-- DONE of a SCALE command: the results for the byte received, or for a free byte (log entry 1). -/
theorem exec_scaleDone {op : HostCmd} {s : State} (hop : op = .scaleAccel ∨ op = .scaleGyro) (hrun : s.running op)
    (hq : s.seq.phase = .done) :
    exec op.instr s = .next
      (({ s with draws := s.draws + if s.seq.rx then 0 else 1 } : State).returned (doneRegs op s)) := by
  rw [exec_of_running hrun.1 hrun.2]
  rcases hop with rfl | rfl <;> simp only [commandBody, scaleBody, hq, rdtxTaken_eq] <;> rfl

/-- Settles O33: COMPUTE's step, and DONE with the tier of the byte read. -/
theorem scaleAccelCompletes : Obligations.ScaleAccelCompletes := by
  refine fun s hrun => ⟨exec_compute hrun rfl nofun, fun hq => ?_⟩
  refine (exec_scaleDone (Or.inl rfl) hrun hq).trans ?_
  simp only [doneRegs, scaleAccelResults, rdtxByte]
  cases Config.tierOf (if s.seq.rx then s.m.dr else Config.freeByte s.draws) <;> rfl

/-- Settles O34: COMPUTE's step, and DONE with the tier of the byte read. -/
theorem scaleGyroCompletes : Obligations.ScaleGyroCompletes := by
  refine fun s hrun => ⟨exec_compute hrun rfl nofun, fun hq => ?_⟩
  refine (exec_scaleDone (Or.inr rfl) hrun hq).trans ?_
  simp only [doneRegs, scaleGyroResults, rdtxByte]
  cases Config.tierOf (if s.seq.rx then s.m.dr else Config.freeByte s.draws) <;> rfl

/-! ### ESTIMATE (R215) -/

theorem freeIfNaN_spec (n : Nat) (x : F32) :
    (isNaN x = false → freeIfNaN n x = x) ∧ (isNaN x = true → isNaN (freeIfNaN n x) = true) := by
  rcases freeIfNaN_cases n x with ⟨hx, h⟩ | ⟨hx, h⟩ <;> simp [hx, h]

/-- Settles O40: COMPUTE's step, and DONE with the three results. -/
theorem estimateCompletes : Obligations.EstimateCompletes := by
  refine fun s hrun => ⟨exec_compute hrun rfl nofun, fun hq => ?_⟩
  refine ⟨freeIfNaN s.draws (tiltAngle atanDeg s.regs.acc.x s.regs.acc.y s.regs.acc.z),
    freeIfNaN (s.draws + 1) (tiltAngle atanDeg s.regs.acc.y s.regs.acc.x s.regs.acc.z), ?_,
    (freeIfNaN_spec _ _).1, (freeIfNaN_spec _ _).2, (freeIfNaN_spec _ _).1, (freeIfNaN_spec _ _).2⟩
  refine (exec_of_running (op := .estimate) hrun.1 hrun.2).trans ?_
  simp only [commandBody, estimateBody, hq]
  rfl

/-! ### The angle function (R203) -/

theorem atanDeg_nan {x : F32} (h : isNaN x = true) : atanDeg x = qNaN := if_pos h

theorem atanDeg_eq_pack32 {x : F32} (h : isNaN x = false) :
    atanDeg x = pack32 (signOf x) (atanMag Config.atanRaw (magOf x)) :=
  if_neg (by rw [h]; exact Bool.false_ne_true)

theorem atanDeg_parts {x : F32} (h : isNaN x = false) :
    magOf (atanDeg x) = atanMag Config.atanRaw (magOf x) ∧ signOf (atanDeg x) = signOf x ∧ isNaN (atanDeg x) = false :=
  atanDegOf_parts Config.atanRaw x h

theorem isFinite32_atanDeg {x : F32} (h : isNaN x = false) : isFinite32 (atanDeg x) = true := by
  rw [isFinite32_iff, (atanDeg_parts h).1]
  exact atanMag_lt _ _

theorem atanDeg_zero {x : F32} (h : magOf x = 0) : atanDeg x = x := by
  rw [atanDeg_eq_pack32 (isNaN_of_isFinite32 (isFinite32_of_zero h)), h, atanMag_zero, pack32_signOf_zero h]

theorem atanDeg_fneg {x : F32} (h : isNaN x = false) : atanDeg (fneg x) = fneg (atanDeg x) := by
  obtain ⟨hmag, hsign⟩ := fneg_parts x
  obtain ⟨hamag, hasign, -⟩ := atanDeg_parts h
  rw [atanDeg_eq_pack32 ((isNaN_fneg x).trans h), hmag, hsign, fneg, hamag, hasign]

theorem atanDeg_inf {x : F32} (h : magOf x = inf32) : atanDeg x = if signOf x then fneg a90 else a90 := by
  have hnan : isNaN 0x7F800000 = false := by decide
  have hmag : magOf 0x7F800000 = inf32 := by decide
  have hsign : signOf 0x7F800000 = false := by decide
  obtain ⟨hnegmag, hnegsign⟩ := fneg_parts 0x7F800000
  cases hs : signOf x
  · rw [eq_of_parts (h.trans hmag.symm) (hs.trans hsign.symm), if_neg Bool.false_ne_true, a90]
  · rw [eq_of_parts (h.trans (hnegmag.trans hmag).symm) (hs.trans (by rw [hnegsign, hsign]; rfl)), atanDeg_fneg hnan,
      if_pos rfl, a90]

theorem orderKey_le_iff {x y : F32} :
    orderKey x ≤ orderKey y ↔
      (signOf x = false ∧ signOf y = false ∧ magOf x ≤ magOf y) ∨ (signOf x = true ∧ signOf y = true ∧ magOf y ≤ magOf x) ∨
        (signOf x = true ∧ signOf y = false) ∨ (signOf x = false ∧ signOf y = true ∧ magOf x = 0 ∧ magOf y = 0) := by
  unfold orderKey
  cases signOf x <;> cases signOf y <;> simp
  all_goals omega

theorem fgt_iff {x y : F32} : fgt x y = true ↔ isNaN x = false ∧ isNaN y = false ∧ orderKey y < orderKey x := by
  simp [fgt, and_assoc]

theorem fgt_zero_iff {x : F32} : fgt x 0 = true ↔ isNaN x = false ∧ signOf x = false ∧ magOf x ≠ 0 := by
  have h0 : isNaN 0 = false ∧ orderKey 0 = 0 := by decide
  rw [fgt_iff, h0.1, h0.2, orderKey]
  cases signOf x <;> simp
  omega

theorem zero_fgt_iff {x : F32} : fgt 0 x = true ↔ isNaN x = false ∧ signOf x = true ∧ magOf x ≠ 0 := by
  have h0 : isNaN 0 = false ∧ orderKey 0 = 0 := by decide
  rw [fgt_iff, h0.1, h0.2, orderKey]
  cases signOf x <;> simp
  omega

/-- Settles O39: `atanDeg` keeps signs, and its magnitudes rise from 0 and stay finite. -/
theorem angleFunctionProperties : Obligations.AngleFunctionProperties := by
  refine ⟨⟨atanDeg_zero (by decide), atanDeg_zero (by decide)⟩, fun x hx => ?nan, fun x => atanDeg_fneg,
    fun x y hx hy hle => ?mono, ⟨isFinite32_atanDeg (by decide), fun x hx => ?bound⟩, fun x hx => ?pos⟩
  case nan => rw [atanDeg_nan hx, isNaN_qNaN]
  case mono =>
    obtain ⟨hmx, hsx, -⟩ := atanDeg_parts hx
    obtain ⟨hmy, hsy, -⟩ := atanDeg_parts hy
    rw [orderKey_le_iff] at hle ⊢
    rw [hmx, hsx, hmy, hsy]
    refine hle.imp (fun ⟨h1, h2, h⟩ => ⟨h1, h2, atanMag_mono _ h⟩) (Or.imp (fun ⟨h1, h2, h⟩ => ⟨h1, h2, atanMag_mono _ h⟩)
      (Or.imp_right fun ⟨h1, h2, hx0, hy0⟩ => ⟨h1, h2, ?_, ?_⟩))
    · rw [hx0, atanMag_zero]
    · rw [hy0, atanMag_zero]
  case bound =>
    have hle : magOf x ≤ magOf 0x7F800000 := not_lt.mp (of_decide_eq_false hx)
    rw [(atanDeg_parts hx).1, (atanDeg_parts (x := 0x7F800000) (by decide)).1]
    exact atanMag_mono _ hle
  case pos =>
    obtain ⟨hn, hs, h0⟩ := fgt_zero_iff.mp hx
    obtain ⟨hmag, hsign, hnan⟩ := atanDeg_parts hn
    exact fgt_zero_iff.mpr ⟨hnan, hsign.trans hs, by rw [hmag]; exact (atanMag_pos _ h0).ne'⟩

/-! ### The yaw gate (R216) -/

theorem fgt_nan {x y : F32} (h : isNaN x = true ∨ isNaN y = true) : fgt x y = false := by
  rcases h with h | h <;> simp [fgt, h]

theorem yawGate_above {n : Nat} {y0 t gz : F32} (h : fgt gz four = true) : yawGate n y0 t gz = freeIfNaN n (fadd y0 t) :=
  if_pos h

theorem yawGate_below {n : Nat} {y0 t gz : F32} (h : fgt minusFour gz = true) :
    yawGate n y0 t gz = freeIfNaN n (fsub y0 t) := by
  have hnot : ¬fgt gz four = true := fun h' => by
    have h1 := (fgt_iff.mp h).2.2
    have h2 := (fgt_iff.mp h').2.2
    have : orderKey minusFour < orderKey four := by decide
    omega
  rw [yawGate, if_neg hnot, if_pos h]

theorem yawGate_dead {n : Nat} {y0 t gz : F32} (h1 : fgt gz four = false) (h2 : fgt minusFour gz = false) :
    yawGate n y0 t gz = y0 := by
  rw [yawGate, h1, h2]
  rfl

theorem isNaN_freeIfNaN (n : Nat) (x : F32) : isNaN (freeIfNaN n x) = isNaN x := by
  rcases freeIfNaN_cases n x with ⟨hx, h⟩ | ⟨hx, h⟩ <;> rw [h]
  exact hx.symm

/-- Settles O41: the branches exclude each other, and no boundary and no NaN takes one. -/
theorem yawGateRule : Obligations.YawGateRule := by
  intro n y0 t gz
  refine ⟨fun h => ?above, fun h => ?below, yawGate_dead, yawGate_dead (by decide) (by decide),
    yawGate_dead (by decide) (by decide), fun h => yawGate_dead (fgt_nan (Or.inl h)) (fgt_nan (Or.inr h))⟩
  case above =>
    rw [yawGate_above h]
    exact ⟨isNaN_freeIfNaN _ _, (freeIfNaN_spec _ _).1⟩
  case below =>
    rw [yawGate_below h]
    exact ⟨isNaN_freeIfNaN _ _, (freeIfNaN_spec _ _).1⟩

/-! ### The cases of R217 -/

section

variable {x y : F32}

theorem fmul_self_zero (h : magOf x = 0) : fmul x x = 0 := by
  simp only [fmul, unpack32_zero h, bne_self_eq_false]
  rfl

theorem fsqrt_sum_of_zeros (hx : magOf x = 0) (hy : magOf y = 0) : fsqrt (fadd (fmul x x) (fmul y y)) = 0 := by
  rw [fmul_self_zero hx, fmul_self_zero hy]
  decide

theorem atanDeg_fdiv_by_zero (hx : isNaN x = false) (h0 : magOf x ≠ 0) (hy : magOf y = 0) :
    atanDeg (fdiv x y) = if signOf x != signOf y then fneg a90 else a90 := by
  rw [fdiv_by_zero hx h0 hy, atanDeg_inf (magOf_pack32_inf _), signOf_pack32_inf]

theorem atanDeg_zero_fdiv (hx : magOf x = 0) (hy : isNaN y = false) (h0 : magOf y ≠ 0) :
    atanDeg (fdiv x y) = pack32 (signOf x != signOf y) 0 := by
  rw [fdiv_zero hx hy h0, atanDeg_zero (magOf_pack32_zero _)]

theorem isNaN_atanDeg_zero_fdiv_zero (hx : magOf x = 0) (hy : magOf y = 0) : isNaN (atanDeg (fdiv x y)) = true := by
  rw [fdiv_zero_zero hx hy, atanDeg_nan isNaN_qNaN, isNaN_qNaN]

/-- A sum with a value that is not above 0 does not pass the other addend. -/
theorem orderKey_fadd_le {a b : ℚ} (hx : ratValue x = some a) (hy : ratValue y = some b) (hb : b ≤ 0) :
    orderKey (fadd x y) ≤ orderKey x := by
  obtain ⟨⟨hnan, hfin, hsign, -⟩, hnear⟩ := (fadd_rounds hx hy).1
  rcases inf_or_finite hnan with hi | hf
  · have hover := hfin.mp (isFinite32_of_inf hi)
    have ha := (abs_lt.mp (abs_lt_of_ratValue hx)).2
    have hneg : a + b < 0 := by
      by_contra! h
      rw [abs_of_nonneg h] at hover
      linarith
    have hfx := isFinite32_iff.mp (ratValue_eq_some hx).1
    rw [orderKey_le_iff, hi, (hsign hneg.ne).mpr hneg]
    cases signOf x
    · exact Or.inr (Or.inr (Or.inl ⟨rfl, rfl⟩))
    · exact Or.inr (Or.inl ⟨rfl, rfl, hfx.le⟩)
  · have hq := ratValue_of_finite hf
    exact orderKey_le_of_ratValue_le hq hx ((hnear _ hq).ge_of_ge (isFloat_of_ratValue hx) (by linarith))

theorem fadd_minusZero (hx : isNaN x = false) : fadd x 0x80000000 = x := by
  rcases inf_or_finite hx with hi | hf
  · exact (fadd_inf hi (Or.inl (by decide))).1
  · have hval := ratValue_of_finite hf
    obtain ⟨hrounds, hsign⟩ := fadd_rounds hval (ratValue_zero (x := 0x80000000) (by decide))
    rw [add_zero] at hrounds hsign
    refine eq_of_ratValue_eq (hrounds.ratValue_eq (abs_lt_of_ratValue hval) (isFloat_of_ratValue hval)) hval fun h => ?_
    rw [hsign h, show signOf 0x80000000 = true by decide, Bool.and_true]

/-- The angle of a positive root over a negative value has the sign bit set. -/
theorem atanDeg_fdiv_negative (hx : fgt x 0 = true) (hy : fgt 0 y = true) (hnan : isNaN (fdiv x y) = false) :
    signOf (atanDeg (fdiv x y)) = true := by
  rw [(atanDeg_parts hnan).2.1, signOf_fdiv hnan, (fgt_zero_iff.mp hx).2.1, (zero_fgt_iff.mp hy).2.1]
  rfl

end

/-- Settles O42: quotients of zeros and infinities, and for Az < 0 a term that is not above 0. -/
theorem nonFiniteCasesPropagate : Obligations.NonFiniteCasesPropagate := by
  intro ax ay az y0 root t
  refine ⟨fun hroot => ?plusZero, fun hroot => ?minusZero, fun hx hy hz => ?allZero, fun hy hz hx hnan => ?onlyX,
    fun hz hroot hnan => ?negative, fun hx hy hz => ?negativeOnly⟩
  case plusZero =>
    obtain ⟨hn, hs, h0⟩ := fgt_zero_iff.mp hroot
    refine (atanDeg_fdiv_by_zero (y := 0x00000000) hn h0 (by decide)).trans (if_neg ?_)
    rw [hs]
    decide
  case minusZero =>
    obtain ⟨hn, hs, h0⟩ := fgt_zero_iff.mp hroot
    refine (atanDeg_fdiv_by_zero (y := 0x80000000) hn h0 (by decide)).trans (if_pos ?_)
    rw [hs]
    decide
  case allZero =>
    have root_zero {a b : F32} (ha : magOf a = 0) (hb : magOf b = 0) :
        magOf (fsqrt (fadd (fmul a a) (fmul b b))) = 0 := by rw [fsqrt_sum_of_zeros ha hb]; decide
    exact ⟨isNaN_atanDeg_zero_fdiv_zero hx (root_zero hy hz), isNaN_atanDeg_zero_fdiv_zero hy (root_zero hx hz),
      isNaN_atanDeg_zero_fdiv_zero (root_zero hx hy) hz⟩
  case onlyX =>
    constructor
    · rw [tiltAngle, fsqrt_sum_of_zeros hy hz, atanDeg_fdiv_by_zero hnan hx (by decide)]
      cases signOf ax <;> rfl
    · intro hroot
      obtain ⟨hn, hs, h0⟩ := fgt_zero_iff.mp hroot
      rw [tiltAngle, atanDeg_zero_fdiv hy hn h0, hs, Bool.bne_false, pack32_signOf_zero hy]
  case negative =>
    have hsign : signOf t = true := atanDeg_fdiv_negative hroot hz hnan
    obtain ⟨hmag, -, htnan⟩ := atanDeg_parts hnan
    refine ⟨hsign, fun h0 => zero_fgt_iff.mpr ⟨htnan, hsign, ?_⟩, fun hy0 => ?_⟩
    · exact ne_of_eq_of_ne hmag (atanMag_pos _ h0).ne'
    · refine orderKey_fadd_le (ratValue_of_finite hy0) (ratValue_of_finite (x := t) (isFinite32_atanDeg hnan)) ?_
      rw [hsign]
      exact neg_nonpos.mpr (magValue_nonneg _ _ _)
  case negativeOnly =>
    obtain ⟨hn, hs, h0⟩ := zero_fgt_iff.mp hz
    have ht : t = 0x80000000 := by
      refine (congrArg (fun r => atanDeg (fdiv r az)) (fsqrt_sum_of_zeros hx hy)).trans ?_
      rw [atanDeg_zero_fdiv (by decide) hn h0, hs]
      decide
    rw [ht]
    exact ⟨rfl, fadd_minusZero⟩

end Sys2Proof.Machine
end

section
/-!
PROOFS. A recorded fault stops every step, the first one is kept (60_exceptions R248), and reset does not
reach it (70_reset R270).
-/

namespace Sys2Proof.Machine

theorem step_of_fault {s : State} {r : Fault} (h : s.fault = some r) : step s = .fault r :=
  stepWith_of_fault exec s r h

theorem State.record_of_fault {s : State} {r : Fault} (h : s.fault = some r) (q : Fault) : s.record q = s := by
  rw [State.record, h]

theorem State.record_of_no_fault {s : State} (h : s.fault = none) (q : Fault) :
    s.record q = { s with fault := some q } := by
  rw [State.record, h]

/-- Settles O11: the two branches of the record, what a fault makes of a step, and the frame of a reset. -/
theorem faultIsFinal : Obligations.FaultIsFinal := by
  intro s r q
  exact ⟨fun h => ⟨step_of_fault h, State.record_of_fault h q⟩, fun h => State.record_of_no_fault h q,
    applyReset_fault s⟩

end Sys2Proof.Machine
end

section
/-!
PROOFS. A YAW that is a NaN or an infinity stays one in every step but a reset (70_reset R287): a sum or difference
with such a first operand is one too, and a step changes YAW by the yaw gate alone.
-/

namespace Sys2Proof.Machine

theorem isFinite32_of_isNaN {x : F32} (h : isNaN x = true) : isFinite32 x = false :=
  Bool.eq_false_iff.mpr fun hf => absurd (h.symm.trans (isNaN_of_isFinite32 hf)) nofun

section

variable {x : F32} (hx : isFinite32 x = false)
include hx

/-- ±∞ takes in a finite addend, and gives itself or a NaN with another infinity. -/
theorem fadd_not_finite (y : F32) : isFinite32 (fadd x y) = false := by
  rcases pattern_cases x with hnan | hinf | hfin
  · rw [fadd_nan (Or.inl hnan)]
    decide
  · rcases pattern_cases y with hy | hy | hy
    · rw [fadd_nan (Or.inr hy)]
      decide
    · by_cases hs : signOf x = signOf y
      · rwa [(fadd_inf hinf (Or.inr ⟨hy, hs.symm⟩)).1]
      · rw [fadd_opposite_inf hinf hy hs]
        decide
    · rwa [(fadd_inf hinf (Or.inl hy)).1]
  · exact absurd (hx.symm.trans hfin) nofun

theorem fsub_not_finite (y : F32) : isFinite32 (fsub x y) = false := fadd_not_finite hx (fneg y)

theorem freeIfNaN_not_finite (n : Nat) : isFinite32 (freeIfNaN n x) = false := by
  rcases freeIfNaN_cases n x with ⟨_, h⟩ | ⟨_, h⟩
  · rwa [h]
  · exact isFinite32_of_isNaN h

theorem yawGate_not_finite (n : Nat) (t gz : F32) : isFinite32 (yawGate n x t gz) = false := by
  by_cases habove : fgt gz four = true
  · rw [yawGate_above habove]
    exact freeIfNaN_not_finite (fadd_not_finite hx t) n
  by_cases hbelow : fgt minusFour gz = true
  · rw [yawGate_below hbelow]
    exact freeIfNaN_not_finite (fsub_not_finite hx t) n
  · rwa [yawGate_dead (Bool.eq_false_iff.mpr habove) (Bool.eq_false_iff.mpr hbelow)]

end

theorem doneRegs_yaw (op : HostCmd) (s : State) :
    (doneRegs op s).yaw = s.regs.yaw ∨
      (doneRegs op s).yaw = yawGate (s.draws + 2) s.regs.yaw (yawTerm atanDeg s.regs.acc) s.regs.gyr.z := by
  by_cases hop : op = .estimate
  · subst hop
    exact Or.inr rfl
  · exact Or.inl (by_contra fun hne => hop ((doneRegs_doneBy op s).yaw hne))

/-- A step other than a reset leaves YAW, or passes it through the yaw gate. -/
theorem step_yaw {s t : State} (h : step s = .next t) (hr : nextAgent s ≠ .reset) :
    t.regs.yaw = s.regs.yaw ∨ ∃ n term gz, t.regs.yaw = yawGate n s.regs.yaw term gz := by
  rcases step_regs h hr with heq | ⟨_, _, heq⟩ | ⟨_, _, heq⟩ | ⟨_, _, heq⟩ | ⟨_, _, _, _, hstore⟩ |
    ⟨op, _, _, _, _, _, _, heq⟩ | ⟨_, _, _, _, heq⟩
  · exact Or.inl (by rw [heq])
  · exact Or.inl (by rw [heq])
  · exact Or.inl (by rw [heq])
  · exact Or.inl (by rw [heq])
  · exact Or.inl (writeRw_storedAt hstore).yaw
  · rw [heq]
    exact (doneRegs_yaw op (scheduled s)).imp_right fun hgate => ⟨_, _, _, hgate⟩
  · exact Or.inl (by rw [heq])

/-- Settles O43: a step leaves YAW or passes it through the yaw gate, which gives nothing finite for it. -/
theorem poisonedYawStaysNonFinite : Obligations.PoisonedYawStaysNonFinite := by
  intro s t h hx hr
  rcases step_yaw h hr with hyaw | ⟨n, term, gz, hyaw⟩ <;> rw [hyaw]
  · exact hx
  · exact yawGate_not_finite hx n term gz

end Sys2Proof.Machine
end

section
/-!
PROOFS. Reset: its step, and the state it leaves (70_reset R270, R271, R276).
-/

namespace Sys2Proof.Machine

@[simp] theorem bufByte_reset (k : Nat) : bufByte Regs.reset k = 0 := by
  simp only [bufByte, Regs.reset, Vector.getElem?_replicate]
  split <;> rfl

/-- The whole window after reset (10_state R21): IMU_SA alone reads something else than 0. -/
theorem readReg_reset (off : Nat) :
    readReg Regs.reset off = if off = 0x20 then Config.imuSaReset.setWidth 32 else 0 := by
  by_cases himu : off = 0x20
  · subst himu
    rfl
  · rw [if_neg himu]
    unfold readReg
    split
    case h_8 => exact absurd rfl himu
    all_goals rfl

/-- Settles O50: the order of agents always gives reset its turn, and its move is the reset of the three parts. -/
theorem resetStep : Obligations.ResetStep := by
  refine ⟨nextAgent_reset_iff, fun s hf hr => ⟨Regs.reset, fun off _ => readReg_reset off, ?_⟩⟩
  rw [step_eq_agentMove hf, hr]
  rfl

/-- Settles O51: the window read at the reset values, and the master's and the sequencer's fields. -/
theorem resetStateSummary : Obligations.ResetStateSummary :=
  ⟨fun off _ => readReg_reset off, rfl, rfl, rfl, rfl, rfl, bufByte_reset⟩

/-- Settles O52: the accelerations are all 0, so that both tilts are NaN (R217), and the angular rate 0 lies in the dead
band of the yaw gate (R216). -/
theorem estimateOnResetValues : Obligations.EstimateOnResetValues := by
  have haccept : exec .estimate State.reset = .next (State.reset.accepted .estimate) :=
    exec_accepts (op := .estimate) rfl nofun nofun
  have hcompute := (estimateCompletes (State.reset.accepted .estimate) ⟨rfl, rfl⟩).1 rfl
  obtain ⟨x, y, hdone, -, hx, -, hy⟩ :=
    (estimateCompletes ((State.reset.accepted .estimate).atPhase .done) ⟨rfl, rfl⟩).2 rfl
  obtain ⟨-, -, hzero, -⟩ := nonFiniteCasesPropagate 0 0 0 0
  obtain ⟨htiltX, htiltY, -⟩ := hzero rfl rfl rfl
  have hyaw : yawGate 2 0 (yawTerm atanDeg { x := 0, y := 0, z := 0 }) 0 = 0 := yawGate_dead (by decide) (by decide)
  exact ⟨_, _, _, haccept, hcompute, hdone, hx htiltX, hy htiltY, hyaw, rfl⟩

/-- Settles O53: no command runs and no master command is in work, so that most parts speak of nothing. -/
theorem resetMeetsTheInvariant : Obligations.ResetMeetsTheInvariant where
  busy_iff_op := rfl
  idle_bus _ := ⟨rfl, rfl, rfl, rfl⟩
  phase_of_op := nofun
  latched_agree h := absurd rfl h
  init_enables := nofun
  init_done_enabled := nofun
  bus_after_init := nofun
  error_flags := rfl
  busy_issued := nofun
  issued_code := nofun
  burst_index := nofun
  held_before := nofun
  held_after := nofun
  result_codes := ⟨rfl, rfl⟩
  sample_index := Nat.zero_le _
  memory_wf := rfl

end Sys2Proof.Machine
end
